-- ==== Sys2Proof/Word.lean ====
section
/-! DEFINITION. The word types of the engine: bytes, 64-bit register values and 128-bit vectors (R10, R11, R21). -/

namespace Sys2Proof

/-- A byte: 8 bits, bit 0 the least significant (R10). -/
abbrev Byte := BitVec 8

/-- A host-visible register value or command word: 64 bits, unsigned (R9 REG_WIDTH, R10, R70). -/
abbrev Word := BitVec 64

/-- A 128-bit value: 16 byte lanes, lane `j` being bits `[8j+7:8j]` (R11). No rule reads a vector as a number; lanes are
reached through `lane` and built through `ofLanes` (Machine/Lanes.lean), and only XOR acts on the bits (R133). -/
abbrev Vec := BitVec 128

end Sys2Proof
end

