-- ==== Sys2Proof/Machine/Lanes.lean ====
section
/-! DEFINITION. Vectors and their lanes (R11), the nibble split (R10, R135) and the fixed lane moves (R136, R137). -/

namespace Sys2Proof.Machine

/-- `V{j}`: lane `j` of a vector (R11). -/
def lane (v : Vec) (j : Fin 16) : Byte := v.extractLsb' (8 * j.val) 8

/-- A byte placed in lane `j`, every other lane 0x00. -/
def putLane (b : Byte) (j : Nat) : Vec := b.setWidth 128 <<< (8 * j)

/-- The vector whose lane `j` is `f j` (R11: lane 0 is bits [7:0]). -/
def ofLanes (f : Fin 16 → Byte) : Vec :=
  putLane (f 0) 0 ||| putLane (f 1) 1 ||| putLane (f 2) 2 ||| putLane (f 3) 3 ||| putLane (f 4) 4 ||| putLane (f 5) 5 |||
    putLane (f 6) 6 ||| putLane (f 7) 7 ||| putLane (f 8) 8 ||| putLane (f 9) 9 ||| putLane (f 10) 10 ||| putLane (f 11) 11 |||
    putLane (f 12) 12 ||| putLane (f 13) 13 ||| putLane (f 14) 14 ||| putLane (f 15) 15

/-- The vector written as a byte list, lane 0 first (R11); a missing lane is 0x00. -/
def ofBytes (bs : List Byte) : Vec := ofLanes fun j => bs.getD j.val 0

/-- The lanes of a vector as a byte list, lane 0 first (R11). -/
def toBytes (v : Vec) : List Byte := (List.finRange 16).map (lane v)

/-- `bcast(c)`: every lane equal to `c` (R11). -/
def bcast (c : Byte) : Vec := ofLanes fun _ => c

/-- `zero` = `bcast(0x00)` (R11). -/
def zero : Vec := bcast 0x00

/-- The low nibble of a byte (R10). -/
def loNibble (b : Byte) : Byte := b &&& 0x0F

/-- The high nibble of a byte (R10). -/
def hiNibble (b : Byte) : Byte := b >>> 4

/-- `lo(V)` (R135). -/
def lo (v : Vec) : Vec := ofLanes fun j => loNibble (lane v j)

/-- `hi(V)` (R135). -/
def hi (v : Vec) : Vec := ofLanes fun j => hiNibble (lane v j)

/-- The lane number `n mod 16`. -/
def laneIndex (n : Nat) : Fin 16 := ⟨n % 16, Nat.mod_lt n (by decide)⟩

/-- `SHL_LANES(V, k)`: lane i = V{i − k} if i ≥ k, else 0x00 (R136). -/
def shlLanes (v : Vec) (k : Nat) : Vec :=
  ofLanes fun i => if k ≤ i.val then lane v (laneIndex (i.val - k)) else 0x00

/-- `ROT_UP(V, k)`, k ≤ 15: lane i = V{(i − k) mod 16} (R136). -/
def rotUp (v : Vec) (k : Nat) : Vec := ofLanes fun i => lane v (laneIndex (i.val + 16 - k % 16))

/-- `ROT_DOWN(V, k)`: lane i = V{(i + k) mod 16} (R136). -/
def rotDown (v : Vec) (k : Nat) : Vec := ofLanes fun i => lane v (laneIndex (i.val + k))

/-- `LANE0(b)`: lane 0 = b, every other lane 0x00 (R136). -/
def lane0 (b : Byte) : Vec := ofLanes fun i => if i.val = 0 then b else 0x00

/-- `BCAST_W3(V)`: word 3 in all four words (R137). -/
def bcastW3 (v : Vec) : Vec := ofLanes fun j => lane v (laneIndex (12 + j.val % 4))

end Sys2Proof.Machine
end

