-- ==== Sys2Proof/Machine/Rom.lean ====
section
/-! DEFINITION. The constant table set: the ROM of R100 to R119 (R43). Each vector is listed lane 0 first, as
spec/40_constant_tables.md lists it. Nothing writes it, so it is constants and no field of `State`. -/

namespace Sys2Proof.Machine.Rom

/-! Input basis change (R101). -/

def IPT_LO : Vec := ofBytes [0x00, 0x70, 0x2A, 0x5A, 0x98, 0xE8, 0xB2, 0xC2, 0x08, 0x78, 0x22, 0x52, 0x90, 0xE0, 0xBA, 0xCA]
def IPT_HI : Vec := ofBytes [0x00, 0x4D, 0x7C, 0x31, 0x7D, 0x30, 0x01, 0x4C, 0x81, 0xCC, 0xFD, 0xB0, 0xFC, 0xB1, 0x80, 0xCD]

/-! Nibble inversion (R102). -/

def INV_1 : Vec := ofBytes [0x80, 0x01, 0x08, 0x0D, 0x0F, 0x06, 0x05, 0x0E, 0x02, 0x0C, 0x0B, 0x0A, 0x09, 0x03, 0x07, 0x04]
def INV_2 : Vec := ofBytes [0x80, 0x07, 0x0B, 0x0F, 0x06, 0x0A, 0x04, 0x01, 0x09, 0x08, 0x05, 0x02, 0x0C, 0x0E, 0x0D, 0x03]

/-! Encryption S-box output (R103). -/

def SB1U : Vec := ofBytes [0x00, 0x3E, 0x50, 0xCB, 0x8F, 0xE1, 0x9B, 0xB1, 0x44, 0xF5, 0x2A, 0x14, 0x6E, 0x7A, 0xDF, 0xA5]
def SB1T : Vec := ofBytes [0x00, 0x23, 0xE2, 0xFA, 0x15, 0xD4, 0x18, 0x36, 0xEF, 0xD9, 0x2E, 0x0D, 0xC1, 0xCC, 0xF7, 0x3B]

/-! Encryption S-box output times 2 (R104). -/

def SB2U : Vec := ofBytes [0x00, 0x24, 0x71, 0x0B, 0xC6, 0x93, 0x7A, 0xE2, 0xCD, 0x2F, 0x98, 0xBC, 0x55, 0xE9, 0xB7, 0x5E]
def SB2T : Vec := ofBytes [0x00, 0x29, 0xE1, 0x0A, 0x40, 0x88, 0xEB, 0x69, 0x4A, 0x23, 0x82, 0xAB, 0xC8, 0x63, 0xA1, 0xC2]

/-! Encryption final output (R105). -/

def SBOU : Vec := ofBytes [0x00, 0xC7, 0xBD, 0x6F, 0x17, 0x6D, 0xD2, 0xD0, 0x78, 0xA8, 0x02, 0xC5, 0x7A, 0xBF, 0xAA, 0x15]
def SBOT : Vec := ofBytes [0x00, 0x6A, 0xBB, 0x5F, 0xA5, 0x74, 0xE4, 0xCF, 0xFA, 0x35, 0x2B, 0x41, 0xD1, 0x90, 0x1E, 0x8E]

/-! Decryption input basis change (R106). -/

def DIPT_LO : Vec := ofBytes [0x00, 0x5F, 0x54, 0x0B, 0x04, 0x5B, 0x50, 0x0F, 0x1A, 0x45, 0x4E, 0x11, 0x1E, 0x41, 0x4A, 0x15]
def DIPT_HI : Vec := ofBytes [0x00, 0x65, 0x05, 0x60, 0xE6, 0x83, 0xE3, 0x86, 0x94, 0xF1, 0x91, 0xF4, 0x72, 0x17, 0x77, 0x12]

/-! Decryption output times 0x09 (R107). -/

def SB9U : Vec := ofBytes [0x00, 0xD6, 0x86, 0x9A, 0x53, 0x03, 0x1C, 0x85, 0xC9, 0x4C, 0x99, 0x4F, 0x50, 0x1F, 0xD5, 0xCA]
def SB9T : Vec := ofBytes [0x00, 0x49, 0xD7, 0xEC, 0x89, 0x17, 0x3B, 0xC0, 0x65, 0xA5, 0xFB, 0xB2, 0x9E, 0x2C, 0x5E, 0x72]

/-! Decryption output times 0x0D (R108). -/

def SBDU : Vec := ofBytes [0x00, 0xA2, 0xB1, 0xE6, 0xDF, 0xCC, 0x57, 0x7D, 0x39, 0x44, 0x2A, 0x88, 0x13, 0x9B, 0x6E, 0xF5]
def SBDT : Vec := ofBytes [0x00, 0xCB, 0xC6, 0x24, 0xF7, 0xFA, 0xE2, 0x3C, 0xD3, 0xEF, 0xDE, 0x15, 0x0D, 0x18, 0x31, 0x29]

/-! Decryption output times 0x0B (R109). -/

def SBBU : Vec := ofBytes [0x00, 0x42, 0xB4, 0x96, 0x92, 0x64, 0x22, 0xD0, 0x04, 0xD4, 0xF2, 0xB0, 0xF6, 0x46, 0x26, 0x60]
def SBBT : Vec := ofBytes [0x00, 0x67, 0x59, 0xCD, 0xA6, 0x98, 0x94, 0xC1, 0x6B, 0xAA, 0x55, 0x32, 0x3E, 0x0C, 0xFF, 0xF3]

/-! Decryption output times 0x0E (R110). -/

def SBEU : Vec := ofBytes [0x00, 0xD0, 0xD4, 0x26, 0x96, 0x92, 0xF2, 0x46, 0xB0, 0xF6, 0xB4, 0x64, 0x04, 0x60, 0x42, 0x22]
def SBET : Vec := ofBytes [0x00, 0xC1, 0xAA, 0xFF, 0xCD, 0xA6, 0x55, 0x0C, 0x32, 0x3E, 0x59, 0x98, 0x6B, 0xF3, 0x67, 0x94]

/-! Decryption final output (R111). -/

def DSBOU : Vec := ofBytes [0x00, 0x40, 0xF9, 0x7E, 0x53, 0xEA, 0x87, 0x13, 0x2D, 0x3E, 0x94, 0xD4, 0xB9, 0x6D, 0xAA, 0xC7]
def DSBOT : Vec := ofBytes [0x00, 0x1D, 0x44, 0x93, 0x0F, 0x56, 0xD7, 0x12, 0x9C, 0x8E, 0xC5, 0xD8, 0x59, 0x81, 0x4B, 0xCA]

/-! Key-schedule output transform (R112). -/

def OUT_LO : Vec := ofBytes [0x00, 0x60, 0xB6, 0xD6, 0x29, 0x49, 0x9F, 0xFF, 0x08, 0x68, 0xBE, 0xDE, 0x21, 0x41, 0x97, 0xF7]
def OUT_HI : Vec := ofBytes [0x00, 0xEC, 0xBC, 0x50, 0x51, 0xBD, 0xED, 0x01, 0xE0, 0x0C, 0x5C, 0xB0, 0xB1, 0x5D, 0x0D, 0xE1]

/-! Key-schedule deskew transform (R113). -/

def DESKEW_LO : Vec := ofBytes [0x00, 0xE3, 0xA4, 0x47, 0x40, 0xA3, 0xE4, 0x07, 0x1A, 0xF9, 0xBE, 0x5D, 0x5A, 0xB9, 0xFE, 0x1D]
def DESKEW_HI : Vec := ofBytes [0x00, 0x69, 0xEA, 0x83, 0xDC, 0xB5, 0x36, 0x5F, 0x77, 0x1E, 0x9D, 0xF4, 0xAB, 0xC2, 0x41, 0x28]

/-! Decryption-key affine chain (R114). -/

def DSK0 : Vec := ofBytes [0x00, 0xA7, 0xD9, 0x7E, 0xC8, 0x6F, 0x11, 0xB6, 0xFC, 0x5B, 0x25, 0x82, 0x34, 0x93, 0xED, 0x4A]
def DSK1 : Vec := ofBytes [0x00, 0x33, 0x14, 0x27, 0x62, 0x51, 0x76, 0x45, 0xCE, 0xFD, 0xDA, 0xE9, 0xAC, 0x9F, 0xB8, 0x8B]
def DSK2 : Vec := ofBytes [0x00, 0x64, 0xA8, 0xCC, 0xEB, 0x8F, 0x43, 0x27, 0x61, 0x05, 0xC9, 0xAD, 0x8A, 0xEE, 0x22, 0x46]
def DSK3 : Vec := ofBytes [0x00, 0xDD, 0x92, 0x4F, 0xCE, 0x13, 0x5C, 0x81, 0xF2, 0x2F, 0x60, 0xBD, 0x3C, 0xE1, 0xAE, 0x73]
def DSK4 : Vec := ofBytes [0x00, 0xC7, 0xC6, 0x01, 0x02, 0xC5, 0xC4, 0x03, 0xFB, 0x3C, 0x3D, 0xFA, 0xF9, 0x3E, 0x3F, 0xF8]
def DSK5 : Vec := ofBytes [0x00, 0xF7, 0xCF, 0x38, 0xD6, 0x21, 0x19, 0xEE, 0x4B, 0xBC, 0x84, 0x73, 0x9D, 0x6A, 0x52, 0xA5]
def DSK6 : Vec := ofBytes [0x00, 0x20, 0x73, 0x53, 0xB0, 0x90, 0xC3, 0xE3, 0x43, 0x63, 0x30, 0x10, 0xF3, 0xD3, 0x80, 0xA0]
def DSK7 : Vec := ofBytes [0xE8, 0x82, 0x69, 0x03, 0x4B, 0x21, 0xCA, 0xA0, 0x67, 0x0D, 0xE6, 0x8C, 0xC4, 0xAE, 0x45, 0x2F]

/-! Forward diffusion family (R115). -/

def MCF0 : Vec := ofBytes [0x01, 0x02, 0x03, 0x00, 0x05, 0x06, 0x07, 0x04, 0x09, 0x0A, 0x0B, 0x08, 0x0D, 0x0E, 0x0F, 0x0C]
def MCF1 : Vec := ofBytes [0x05, 0x06, 0x07, 0x04, 0x09, 0x0A, 0x0B, 0x08, 0x0D, 0x0E, 0x0F, 0x0C, 0x01, 0x02, 0x03, 0x00]
def MCF2 : Vec := ofBytes [0x09, 0x0A, 0x0B, 0x08, 0x0D, 0x0E, 0x0F, 0x0C, 0x01, 0x02, 0x03, 0x00, 0x05, 0x06, 0x07, 0x04]
def MCF3 : Vec := ofBytes [0x0D, 0x0E, 0x0F, 0x0C, 0x01, 0x02, 0x03, 0x00, 0x05, 0x06, 0x07, 0x04, 0x09, 0x0A, 0x0B, 0x08]

/-! Backward diffusion family (R116). -/

def MCB0 : Vec := ofBytes [0x03, 0x00, 0x01, 0x02, 0x07, 0x04, 0x05, 0x06, 0x0B, 0x08, 0x09, 0x0A, 0x0F, 0x0C, 0x0D, 0x0E]
def MCB1 : Vec := ofBytes [0x0F, 0x0C, 0x0D, 0x0E, 0x03, 0x00, 0x01, 0x02, 0x07, 0x04, 0x05, 0x06, 0x0B, 0x08, 0x09, 0x0A]
def MCB2 : Vec := ofBytes [0x0B, 0x08, 0x09, 0x0A, 0x0F, 0x0C, 0x0D, 0x0E, 0x03, 0x00, 0x01, 0x02, 0x07, 0x04, 0x05, 0x06]
def MCB3 : Vec := ofBytes [0x07, 0x04, 0x05, 0x06, 0x0B, 0x08, 0x09, 0x0A, 0x0F, 0x0C, 0x0D, 0x0E, 0x03, 0x00, 0x01, 0x02]

/-! Row-shift family (R117). -/

def SR0 : Vec := ofBytes [0x00, 0x01, 0x02, 0x03, 0x04, 0x05, 0x06, 0x07, 0x08, 0x09, 0x0A, 0x0B, 0x0C, 0x0D, 0x0E, 0x0F]
def SR1 : Vec := ofBytes [0x00, 0x05, 0x0A, 0x0F, 0x04, 0x09, 0x0E, 0x03, 0x08, 0x0D, 0x02, 0x07, 0x0C, 0x01, 0x06, 0x0B]
def SR2 : Vec := ofBytes [0x00, 0x09, 0x02, 0x0B, 0x04, 0x0D, 0x06, 0x0F, 0x08, 0x01, 0x0A, 0x03, 0x0C, 0x05, 0x0E, 0x07]
def SR3 : Vec := ofBytes [0x00, 0x0D, 0x0A, 0x07, 0x04, 0x01, 0x0E, 0x0B, 0x08, 0x05, 0x02, 0x0F, 0x0C, 0x09, 0x06, 0x03]

/-! Round-constant carrier, initial value (R118). -/

def RCON_INIT : Vec := ofBytes [0xB6, 0xEE, 0x9D, 0xAF, 0xB9, 0x91, 0x83, 0x1F, 0x81, 0x7D, 0x7C, 0x4D, 0x08, 0x98, 0x2A, 0x70]

/-! Internal-basis form of 0x63 (R119). -/

def S63 : Vec := ofBytes [0x5B, 0x5B, 0x5B, 0x5B, 0x5B, 0x5B, 0x5B, 0x5B, 0x5B, 0x5B, 0x5B, 0x5B, 0x5B, 0x5B, 0x5B, 0x5B]

/-- `MCF[k]`, k in 0..3 (R115). -/
def MCF : Nat → Vec
  | 0 => MCF0
  | 1 => MCF1
  | 2 => MCF2
  | _ => MCF3

/-- `MCB[k]`, k in 0..3 (R116). -/
def MCB : Nat → Vec
  | 0 => MCB0
  | 1 => MCB1
  | 2 => MCB2
  | _ => MCB3

/-- `SR[k]`, k in 0..3 (R117). -/
def SR : Nat → Vec
  | 0 => SR0
  | 1 => SR1
  | 2 => SR2
  | _ => SR3

end Sys2Proof.Machine.Rom
end

