-- ==== Sys2Proof/Machine/Affine.lean ====
section
/-! DEFINITION. The affine transform primitive and the substitution core (spec/41_affine_primitive.md): pure functions of
their operands, reading no state but the ROM. -/

namespace Sys2Proof.Machine

/-- One lane of `LOOKUP16`: 0x00 where bit 7 of the index is set, else the entry its bits [3:0] name (R131). -/
def lookupLane (t : Vec) (x : Byte) : Byte :=
  if x.getLsbD 7 then 0x00 else lane t (laneIndex x.toNat)

/-- `LOOKUP16(T, X)` (R131). -/
def lookup16 (t x : Vec) : Vec := ofLanes fun j => lookupLane t (lane x j)

/-- `PERMUTE(V, P)`: lane j = V{P{j}} (R132). Every pattern of the spec has its lanes in 0..15. -/
def permute (v p : Vec) : Vec := ofLanes fun j => lane v (laneIndex (lane p j).toNat)

/-- `AFFINE(V, TLO, THI)` (R134). -/
def affine (v tlo thi : Vec) : Vec := lookup16 tlo (lo v) ^^^ lookup16 thi (hi v)

/-- The internal basis change IPT, lane by lane (R101, R138). -/
def ipt (v : Vec) : Vec := affine v Rom.IPT_LO Rom.IPT_HI

/-- The decryption basis change DIPT, lane by lane (R106, R138). -/
def dipt (v : Vec) : Vec := affine v Rom.DIPT_LO Rom.DIPT_HI

/-- `SUBCORE(B)` = (IO, JO) (R139). -/
def subcore (b : Vec) : Vec × Vec :=
  let i := hi b
  let k := lo b
  let ak := lookup16 Rom.INV_2 k
  let j := k ^^^ i
  let iak := ak ^^^ lookup16 Rom.INV_1 i
  let jak := ak ^^^ lookup16 Rom.INV_1 j
  let io := j ^^^ lookup16 Rom.INV_1 iak
  let jo := i ^^^ lookup16 Rom.INV_1 jak
  (io, jo)

/-- A substitution's output: LOOKUP16(XU, IO) ^ LOOKUP16(XT, JO) (R139). -/
def outPair (xu xt : Vec) (ij : Vec × Vec) : Vec := lookup16 xu ij.1 ^^^ lookup16 xt ij.2

end Sys2Proof.Machine
end

