-- ==== Sys2Proof/Machine/KeySchedule.lean ====
section
/-! DEFINITION. The key schedule generator KEYSCHED (spec/42_key_schedule.md): a pure function of the key bytes (R174). -/

namespace Sys2Proof.Machine

/-- A round-key file: ROUND_KEY_SLOTS = 15 slots of 128 bits (R36). -/
abbrev RoundKeys := Vector Vec 15

/-- A round-key file with every slot zero (R45, R235). -/
def zeroKeys : RoundKeys := Vector.replicate 15 zero

/-- Slot `j` of a round-key file; the files have slots 0..14 (R36), and no rule reads another. -/
def slot (k : RoundKeys) (j : Nat) : Vec := k[j]?.getD zero

/-- The file with slot `j` replaced. -/
def setSlot (k : RoundKeys) (j : Nat) (v : Vec) : RoundKeys := k.setIfInBounds j v

/-- `(-r) mod 4` (R10, R168). -/
def negMod4 (r : Nat) : Nat := (4 - r % 4) % 4

/-- `SMEAR(V)` (R163). -/
def smear (v : Vec) : Vec :=
  let s1 := v ^^^ shlLanes v 4
  s1 ^^^ shlLanes s1 8 ^^^ Rom.S63

/-- `SCHED_ROUND_RC(RC, KW, KP)` = (RC', KN) (R161). -/
def schedRoundRc (rc kw kp : Vec) : Vec × Vec :=
  let kp1 := kp ^^^ lane0 (lane rc 15)
  let rc' := rotUp rc 1
  let t := rotDown (bcastW3 kw) 1
  (rc', outPair Rom.SB1U Rom.SB1T (subcore t) ^^^ smear kp1)

/-- `SCHED_ROUND_LOW(KW, KP)` (R162). -/
def schedRoundLow (kw kp : Vec) : Vec := outPair Rom.SB1U Rom.SB1T (subcore kw) ^^^ smear kp

/-- `MANGLE_ENC(KM, s)` (R164). -/
def mangleEnc (km : Vec) (s : Nat) : Vec :=
  let t1 := permute (km ^^^ Rom.S63) (Rom.MCF 0)
  let t2 := permute t1 (Rom.MCF 0)
  let t3 := permute t2 (Rom.MCF 0)
  permute (t1 ^^^ t2 ^^^ t3) (Rom.SR s)

/-- `MANGLE_DEC(KM, s)` (R165). -/
def mangleDec (km : Vec) (s : Nat) : Vec :=
  let t9 := affine km Rom.DSK0 Rom.DSK1
  let td := affine t9 Rom.DSK2 Rom.DSK3
  let tb := affine td Rom.DSK4 Rom.DSK5
  let te := affine tb Rom.DSK6 Rom.DSK7
  let o1 := permute td (Rom.MCF 0)
  let o2 := permute (o1 ^^^ tb) (Rom.MCF 0)
  let o3 := permute (o2 ^^^ te) (Rom.MCF 0)
  permute (o3 ^^^ t9) (Rom.SR s)

/-- `MANGLE_LAST_ENC(KM, s)` (R166). -/
def mangleLastEnc (km : Vec) (s : Nat) : Vec := affine (permute km (Rom.SR s) ^^^ Rom.S63) Rom.OUT_LO Rom.OUT_HI

/-- `MANGLE_LAST_DEC(KM)` (R167). -/
def mangleLastDec (km : Vec) : Vec := affine (km ^^^ Rom.S63) Rom.DESKEW_LO Rom.DESKEW_HI

/-- What KEYSCHED returns: Nr and the staged files EK', DK' (R160). -/
structure Schedule where
  nr : Nat
  ek : RoundKeys
  dk : RoundKeys
deriving DecidableEq, Repr

/-- The schedule while it runs: the working registers RC, KA, KB (R40) and the staged files. -/
structure SchedWork where
  rc : Vec
  ka : Vec
  kb : Vec
  ek : RoundKeys
  dk : RoundKeys

/-- The body of the loop of `KEYSCHED_128` at round `r` in 1..9 (R169). -/
def sched128Round (w : SchedWork) (r : Nat) : SchedWork :=
  let (rc, ka) := schedRoundRc w.rc w.ka w.ka
  { w with
    rc := rc
    ka := ka
    ek := setSlot w.ek r (mangleEnc ka (negMod4 r))
    dk := setSlot w.dk (10 - r) (mangleDec ka ((10 - r) % 4)) }

/-- The state of `KEYSCHED_128` before its loop (R169, R42). -/
def sched128Init (key : Vec) : SchedWork where
  rc := Rom.RCON_INIT
  ka := ipt key
  kb := zero
  ek := setSlot zeroKeys 0 (ipt key)
  dk := setSlot zeroKeys 10 (permute key (Rom.SR 2))

/-- `KEYSCHED_128(key)` (R169). -/
def keySched128 (key : Vec) : Schedule :=
  let w := (List.range' 1 9).foldl sched128Round (sched128Init key)
  let (_, ka) := schedRoundRc w.rc w.ka w.ka
  { nr := 10
    ek := setSlot w.ek 10 (mangleLastEnc ka 2)
    dk := setSlot w.dk 0 (mangleLastDec ka) }

/-- The body of the loop of `KEYSCHED_256` at round `r` in 2, 4, .., 12 (R170). -/
def sched256Round (w : SchedWork) (r : Nat) : SchedWork :=
  let (rc, ka) := schedRoundRc w.rc w.kb w.ka
  let ek := setSlot w.ek r (mangleEnc ka (negMod4 r))
  let dk := setSlot w.dk (14 - r) (mangleDec ka ((14 - r) % 4))
  let kb := schedRoundLow (bcastW3 ka) w.kb
  { rc := rc
    ka := ka
    kb := kb
    ek := setSlot ek (r + 1) (mangleEnc kb (negMod4 (r + 1)))
    dk := setSlot dk (13 - r) (mangleDec kb ((13 - r) % 4)) }

/-- The state of `KEYSCHED_256` before its loop (R170, R42). -/
def sched256Init (keyLo keyHi : Vec) : SchedWork where
  rc := Rom.RCON_INIT
  ka := ipt keyLo
  kb := ipt keyHi
  ek := setSlot (setSlot zeroKeys 0 (ipt keyLo)) 1 (mangleEnc (ipt keyHi) 3)
  dk := setSlot (setSlot zeroKeys 14 (permute keyLo (Rom.SR 2))) 13 (mangleDec (ipt keyHi) 1)

/-- `KEYSCHED_256(key_lo, key_hi)` (R170). -/
def keySched256 (keyLo keyHi : Vec) : Schedule :=
  let w := [2, 4, 6, 8, 10, 12].foldl sched256Round (sched256Init keyLo keyHi)
  let (_, ka) := schedRoundRc w.rc w.kb w.ka
  { nr := 14
    ek := setSlot w.ek 14 (mangleLastEnc ka 2)
    dk := setSlot w.dk 0 (mangleLastDec ka) }

/-- `KEYSCHED(key)` for the key bytes in memory order (R51, R232): the AES-128 schedule for 16 bytes, else the AES-256 one
for bytes 0..15 and 16..31. -/
def keySched (key : List Byte) : Schedule :=
  if key.length = 16 then keySched128 (ofBytes key)
  else keySched256 (ofBytes (key.take 16)) (ofBytes (key.drop 16))

/-- The slots SET_KEY commits: EK'[j] for j ≤ Nr and zero above (R171, R232). -/
def liveSlots (nr : Nat) (k : RoundKeys) : RoundKeys :=
  Vector.ofFn fun j => if j.val ≤ nr then slot k j.val else zero

end Sys2Proof.Machine
end

