-- ==== Sys2Proof/Machine/Block.lean ====
section
/-! DEFINITION. The block transform sequencer (spec/43_block_transform.md): ENC_BLOCK and DEC_BLOCK, pure functions of the
block, the round keys and Nr (R211). -/

namespace Sys2Proof.Machine

/-- One encryption middle round at round `r` (R201, step 2). -/
def encRound (ek : RoundKeys) (b : Vec) (r : Nat) : Vec :=
  let ij := subcore b
  let a := outPair Rom.SB1U Rom.SB1T ij ^^^ slot ek r
  let a2 := outPair Rom.SB2U Rom.SB2T ij ^^^ permute a (Rom.MCF (r % 4))
  permute a2 (Rom.MCF (r % 4)) ^^^ permute a (Rom.MCB (r % 4)) ^^^ a2

/-- The Block State after step 1 (R201). -/
def encStart (b : Vec) (ek : RoundKeys) : Vec := ipt b ^^^ slot ek 0

/-- The Block State after step 1 and the middle rounds 1..n (R201). -/
def encMiddle (b : Vec) (ek : RoundKeys) (n : Nat) : Vec := (List.range' 1 n).foldl (encRound ek) (encStart b ek)

/-- `ENC_BLOCK(B, EK, Nr)` (R201). -/
def encBlock (b : Vec) (ek : RoundKeys) (nr : Nat) : Vec :=
  permute (outPair Rom.SBOU Rom.SBOT (subcore (encMiddle b ek (nr - 1))) ^^^ slot ek nr) (Rom.SR (nr % 4))

/-- One decryption middle round at round `r` on (B, MC) (R205): the four-stage ladder, then MC <- ROT_UP(MC, 4) (R206). -/
def decRound (dk : RoundKeys) (s : Vec × Vec) (r : Nat) : Vec × Vec :=
  let (b, mc) := s
  let ij := subcore b
  let ch := outPair Rom.SB9U Rom.SB9T ij ^^^ slot dk r
  let ch := permute ch mc ^^^ outPair Rom.SBDU Rom.SBDT ij
  let ch := permute ch mc ^^^ outPair Rom.SBBU Rom.SBBT ij
  (permute ch mc ^^^ outPair Rom.SBEU Rom.SBET ij, rotUp mc 4)

/-- (B, MC) after the initial step (R205). -/
def decStart (b : Vec) (dk : RoundKeys) : Vec × Vec := (dipt b ^^^ slot dk 0, Rom.MCF 3)

/-- (B, MC) after the initial step and the middle rounds 1..n (R205). -/
def decMiddle (b : Vec) (dk : RoundKeys) (n : Nat) : Vec × Vec :=
  (List.range' 1 n).foldl (decRound dk) (decStart b dk)

/-- `WHICH_SR(Nr)`, the source's selector kept as written (R207). -/
def whichSr (nr : Nat) : Nat := ((((nr - 1) <<< 4) ^^^ 48) &&& 48) / 16

/-- `DEC_BLOCK(B, DK, Nr)` (R205). -/
def decBlock (b : Vec) (dk : RoundKeys) (nr : Nat) : Vec :=
  permute (outPair Rom.DSBOU Rom.DSBOT (subcore (decMiddle b dk (nr - 1)).1) ^^^ slot dk nr) (Rom.SR (whichSr nr))

end Sys2Proof.Machine
end

