-- ==== Sys2Proof/Syntax.lean ====
section
/-! DEFINITION. The instructions of the engine: its four host commands (R71), one constructor per row of
spec/opcode_table.json. A command carries no operand fields: its operands are the registers SRC, DST and LEN at the moment
it is accepted (R73). -/

namespace Sys2Proof

/-- The engine's commands (R71). -/
inductive Instr where
  /-- `SET_KEY`: load the key of LEN bytes at SRC (R232). -/
  | setKey
  /-- `ENCRYPT_N`: encrypt LEN blocks from SRC to DST (R233). -/
  | encryptN
  /-- `DECRYPT_N`: decrypt LEN blocks from SRC to DST (R234). -/
  | decryptN
  /-- `CLEAR`: zero all round-key storage (R235). -/
  | clear
deriving DecidableEq, Repr, Inhabited

end Sys2Proof
end

