-- ==== Sys2Proof/Config.lean ====
section
/-! DEFINITION. What one instance of the engine fixes (the parameters of R9), and the free values of the model: the opaque
constants that stand for what the spec leaves open (93_implementation_defined.md, treatment `any value`). -/

namespace Sys2Proof

/-- The two kinds of a byte access on the bus (R55). -/
inductive AccessKind where
  | read
  | write
deriving DecidableEq, Repr

/-- ACCEPTED_KEY_LENGTHS: the three sets of key lengths an instance may accept (R9, decision D4). -/
inductive KeyLengths where
  /-- {16, 32}, the default. -/
  | both
  /-- {16}. -/
  | only16
  /-- {32}. -/
  | only32
deriving DecidableEq, Repr

/-- A run of byte addresses at which the platform refuses accesses of one kind: MEM_OK is false there (R55). -/
structure BusHole where
  base : Nat
  size : Nat
  kind : AccessKind
deriving DecidableEq, Repr

/-- The parameters of one engine instance (R9). They are data that no transition changes.
`busHoles` lists where MEM_OK(addr, kind) is false; MEM_OK depends on the address and the kind only (R55), and over a finite
address space every such function is a finite list. -/
structure Config where
  /-- ADDR_BITS, the width of a host memory address (D7). -/
  addrBits : Nat
  /-- REG_BASE, the base address of the register window (D2, OPEN). -/
  regBase : Nat
  /-- ENGINE_NAME, the value of register NAME (D5, OPEN). -/
  engineName : Word
  /-- ACCEPTED_KEY_LENGTHS (D4). -/
  keyLengths : KeyLengths
  /-- Where MEM_OK is false (D16, OPEN). -/
  busHoles : List BusHole
deriving DecidableEq, Repr

namespace Config

/-- ENGINE_NAME of the instance that `State.reset` describes. The spec leaves it OPEN (D5, U5): a free value. -/
opaque openName : Word

/-- The instance that `State.reset` describes: the spec's defaults for ADDR_BITS, ACCEPTED_KEY_LENGTHS and MEM_OK, the open
name, and a REG_BASE that the model chose (log entries 1 to 4). ResetLeavesTheEngineIdleAndEmpty names this instance; no statement rests on its values. -/
def default : Config where
  addrBits := 64
  regBase := 0x8000000000000000
  engineName := openName
  keyLengths := .both
  busHoles := []

/-! ### Free values
Each is a function of the model's own transition counter `State.freeCount`, so a fresh value is taken at every transition.
None has a body: nothing can be proved of one. -/

/-- CUR_OP after a completion (U13). -/
opaque freeOp : Nat → Instr

/-- CUR_SRC after a completion (U13). -/
opaque freeSrc : Nat → Word

/-- CUR_DST after a completion (U13). -/
opaque freeDst : Nat → Word

/-- CUR_N after a completion (U13). -/
opaque freeN : Nat → Word

/-- CUR_I after a completion (U13). -/
opaque freeI : Nat → BitVec 65

/-- A byte of a destination block that a refused write (U10) or a reset (U9) left at any value: counter, address. -/
opaque freeByte : Nat → Nat → Byte

/-- Which of the values allowed at a raced byte an engine read returns (U8): counter, address. -/
opaque freeEngineRead : Nat → Nat → Nat

/-- Which of the values allowed at a raced byte stands after an engine write (U8): counter, address. -/
opaque freeEngineWrite : Nat → Nat → Nat

/-- Which of the values allowed at a raced byte a host read returns (U8): counter, address. -/
opaque freeHostRead : Nat → Nat → Nat

/-- Which of the values allowed at a raced byte stands after a host write (U8): counter, address. -/
opaque freeHostWrite : Nat → Nat → Nat

end Config

end Sys2Proof
end

