-- ==== Sys2Proof/WellFormed.lean ====
section
/-! DEFINITION. Well-formedness: of an instruction (R73: nothing to check), of an instance's parameters (R9), and of a host
access to the register window (R22). -/

namespace Sys2Proof

/-- A command has no operand field (R73), so every term of `Instr` is a command of the engine. -/
def Instr.wellFormed : Instr → Bool
  | .setKey => true
  | .encryptN => true
  | .decryptN => true
  | .clear => true

/-- The parameters R9 admits: 1 ≤ ADDR_BITS ≤ 64. The other parameters are open or unrepresentable when wrong. -/
def Config.wellFormed (c : Config) : Bool :=
  decide (1 ≤ c.addrBits) && decide (c.addrBits ≤ 64)

/-- A 64-bit access at one of the eight offsets of the register window (R22): `width` in bytes, `offset` from REG_BASE. -/
def windowAccessWellFormed (offset width : Nat) : Bool :=
  decide (width = 8) && decide (offset < 64) && decide (offset % 8 = 0)

end Sys2Proof
end

