-- ==== Sys2Proof/Decode.lean ====
section
/-! DEFINITION. The command word (R70): the decoder, total on every 64-bit word and rejecting by name (R74, R76), and after
it the encoder (R71). A command word is one whole 64-bit register write, so no byte order enters (R52). -/

namespace Sys2Proof

/-- Why a command word is illegal (R74). -/
inductive IllegalCommand where
  /-- A bit of MBZ, `[63:4]`, is 1. -/
  | mbzNotZero
  /-- MBZ is zero and OP is 0x0 or in 0x5..0xF. -/
  | reservedOp (op : BitVec 4)
deriving DecidableEq, Repr

/-- Field OP, `[3:0]` (R70). -/
def opField (c : Word) : BitVec 4 := c.extractLsb' 0 4

/-- Field MBZ, `[63:4]` (R70). -/
def mbzField (c : Word) : BitVec 60 := c.extractLsb' 4 60

/-- The command that an OP value names, if any (R71). -/
def decodeOp (op : BitVec 4) : Option Instr :=
  if op = 0x1 then some .setKey
  else if op = 0x2 then some .encryptN
  else if op = 0x3 then some .decryptN
  else if op = 0x4 then some .clear
  else none

/-- The decoder (R70, R71, R74, R76). -/
def decode (c : Word) : Except IllegalCommand Instr :=
  if mbzField c = 0 then
    match decodeOp (opField c) with
    | some i => .ok i
    | none => .error (.reservedOp (opField c))
  else .error .mbzNotZero

/-- The OP value of a command (R71). -/
def encodeOp : Instr → BitVec 4
  | .setKey => 0x1
  | .encryptN => 0x2
  | .decryptN => 0x3
  | .clear => 0x4

/-- The command word: MBZ zero above OP (R70, R71). -/
def encode (i : Instr) : Word := (0 : BitVec 60) ++ encodeOp i

/-- The word whose low `nbits` bits are those of `w` and whose other bits are 0. -/
def tableWord (nbits w : Nat) : Word := BitVec.ofNat 64 (w % 2 ^ nbits)

/-- The instruction the decoder reads from a row's bits as spec/opcode_table.json numbers them. Every command word is 64
bits (R70), so a row wider than that is none. -/
def decodeTableWord (nbits w : Nat) : Option Instr :=
  if nbits ≤ 64 then
    match decode (tableWord nbits w) with
    | .ok i => some i
    | .error _ => none
  else none

end Sys2Proof
end

