-- ==== Sys2Proof/Machine/Script.lean ====
section
/-! DEFINITION. The outside world as plain data: the transitions that the host, the platform and the scheduler ask for, in
the order in which they take place (R230), and the host-script notation for them (R77, R78). -/

namespace Sys2Proof.Machine

/-- The eight host-visible registers (R21). -/
inductive HostReg where
  | name
  | caps
  | cmd
  | status
  | src
  | dst
  | len
  | progress
deriving DecidableEq, Repr

/-- Offset of a register in the window (R21). -/
def HostReg.offset : HostReg → Nat
  | .name => 0x00
  | .caps => 0x08
  | .cmd => 0x10
  | .status => 0x18
  | .src => 0x20
  | .dst => 0x28
  | .len => 0x30
  | .progress => 0x38

/-- The register at an offset of the window, if one starts there (R21). -/
def regAtOffset : Nat → Option HostReg
  | 0x00 => some .name
  | 0x08 => some .caps
  | 0x10 => some .cmd
  | 0x18 => some .status
  | 0x20 => some .src
  | 0x28 => some .dst
  | 0x30 => some .len
  | 0x38 => some .progress
  | _ => none

/-- One transition of the system, as the outside world or the scheduler asks for it (R230). -/
inductive Event where
  /-- WR: a host register write of `width` bytes at host address `addr` (R77). -/
  | wr (addr width : Nat) (value : Word)
  /-- RD: a host register read of `width` bytes at host address `addr` (R77). -/
  | rd (addr width : Nat)
  /-- MW: the host writes bytes to memory, first byte at `addr` (R77). -/
  | mw (addr : Nat) (bytes : List Byte)
  /-- MR: the host reads `n` bytes of memory at `addr` (R77). -/
  | mr (addr n : Nat)
  /-- The scheduler lets the engine take one step here (R230). -/
  | engine
  /-- WAIT: poll STATUS until BUSY reads 0 (R78). -/
  | wait
  /-- The platform resets the engine here (R330, R331). -/
  | reset
deriving DecidableEq, Repr

/-- `WR <reg>, <value>`: address REG_BASE + offset(reg) (R77). -/
def wrReg (regBase : Nat) (r : HostReg) (v : Word) : Event := .wr (regBase + r.offset) 8 v

/-- `RD <reg>` (R77). -/
def rdReg (regBase : Nat) (r : HostReg) : Event := .rd (regBase + r.offset) 8

/-- `SET_KEY`, `ENCRYPT_N`, `DECRYPT_N`, `CLEAR`: a write of the command word to CMD (R78). -/
def command (regBase : Nat) (i : Instr) : Event := wrReg regBase .cmd (encode i)

/-- `KEY <addr>, <len>` (R78); the source's `set_key` (R79). -/
def scriptKey (regBase : Nat) (addr len : Word) : List Event :=
  [wrReg regBase .src addr, wrReg regBase .len len, command regBase .setKey, .wait]

/-- `ECB_ENC <in>, <out>, <n>` (R78); the source's `encrypt_n` (R79). -/
def scriptEcbEnc (regBase : Nat) (inp out n : Word) : List Event :=
  [wrReg regBase .src inp, wrReg regBase .dst out, wrReg regBase .len n, command regBase .encryptN, .wait]

/-- `ECB_DEC <in>, <out>, <n>` (R78); the source's `decrypt_n` (R79). -/
def scriptEcbDec (regBase : Nat) (inp out n : Word) : List Event :=
  [wrReg regBase .src inp, wrReg regBase .dst out, wrReg regBase .len n, command regBase .decryptN, .wait]

/-- `CLEAR; WAIT`; the source's `clear` (R79). -/
def scriptClear (regBase : Nat) : List Event := [command regBase .clear, .wait]

end Sys2Proof.Machine
end

