-- ==== Sys2Proof/Machine/State.lean ====
section
/-! DEFINITION. The state of the engine and of the host memory it works on (R230: rules R21 to R45 and host memory), as plain
data; the reasons a transition can stop; and the state after reset (R45). -/

namespace Sys2Proof.Machine

/-- The sequencer's phase register, the engine's program counter (R33). -/
inductive Phase where
  | idle
  | key
  | crypt
  | clr
deriving DecidableEq, Repr

/-- STATUS.ERRCODE (R27). Codes 6 to 15 are never produced (U11), so they are no constructors. -/
inductive ErrCode where
  | ok
  | invalidKeyLength
  | keyNotSet
  | illegalCommand
  | addressRange
  | busError
deriving DecidableEq, Repr

/-- One completed byte access of the engine on the bus (R58). -/
structure BusAccess where
  kind : AccessKind
  addr : Nat
deriving DecidableEq, Repr

/-- What the host's latest read returned: a register value (RD, WAIT) or memory bytes (MR). -/
inductive HostData where
  | none
  | reg (value : Word)
  | bytes (bytes : List Byte)
deriving DecidableEq, Repr

/-- Host memory: address and byte pairs, addresses strictly rising, no entry equal to what an unlisted address reads as
(`Memory.wf`, Machine/Ops.lean). -/
abbrev Memory := List Host.Cell

/-- Why a transition faults. -/
inductive Fault where
  /-- Raised by MW and MR: the host names a memory address at or above 2^ADDR_BITS, which does not exist (R53). Safe. -/
  | hostAddressOutside
deriving DecidableEq, Repr

/-- Why a transition is refused. -/
inductive Refusal where
  /-- Raised by no arm of `exec`: every command has its meaning. Safe. -/
  | notModelled (mnemonic : String)
  /-- Raised by WR, RD, MW and MR: an access to the register window that is not an aligned 64-bit one at one of the eight
  offsets has no defined effect, and a model refuses it (R22, R241, U7). Safe. -/
  | malformedRegisterAccess
  /-- Raised by an engine step in a state that no run from reset reaches: a latched key length other than 16 or 32, or a
  round count other than 10 or 14 (R319, U3: refuse). Safe. -/
  | contractViolation
deriving DecidableEq, Repr

/-- The whole state. The first four groups are the spec's; the last group is the model's own (log entries 8 to 11). -/
structure State where
  /-- The instance's parameters (R9); no transition changes them. -/
  cfg : Config
  /-- SRC (R28). -/
  src : Word
  /-- DST (R29). -/
  dst : Word
  /-- LEN (R30). -/
  len : Word
  /-- PROGRESS (R31). -/
  progress : Word
  /-- STATUS.BUSY (R26). -/
  busy : Bool
  /-- STATUS.KEY_VALID (R26). -/
  keyValid : Bool
  /-- STATUS.ERRCODE (R27). -/
  errCode : ErrCode
  /-- NR, read through STATUS[23:16] (R37). -/
  nr : BitVec 8
  /-- The sequencer phase (R33). -/
  phase : Phase
  /-- CUR_OP (R34). -/
  curOp : Instr
  /-- CUR_SRC (R34). -/
  curSrc : Word
  /-- CUR_DST (R34). -/
  curDst : Word
  /-- CUR_N (R34). -/
  curN : Word
  /-- CUR_I, a 65-bit block index (R34). -/
  curI : BitVec 65
  /-- EK[0..14] (R36). -/
  ek : RoundKeys
  /-- DK[0..14] (R36). -/
  dk : RoundKeys
  /-- Host memory (R53). -/
  mem : Memory
  /-- The transitions still to come, first one first (R230). When it is empty the engine runs on by itself (R242). -/
  script : List Event
  /-- What the host's latest read returned. -/
  hostData : HostData
  /-- The byte accesses the current or last command has completed, in order (R58). -/
  busLog : List BusAccess
  /-- Bytes of the running command's buffers that the host overwrote, with the value before, latest first (R65). -/
  hostWrote : List Host.Cell
  /-- Destination bytes that the running command overwrote, with the value before, latest first (R65). -/
  engWrote : List Host.Cell
  /-- How many transitions have been taken: the index of the free values. -/
  freeCount : Nat
deriving DecidableEq, Repr

/-- The state of an instance after reset (R45, R330), with the memory and the pending transitions given. The latches, which
the spec leaves unspecified (U13), hold the values of log entry 6. -/
def State.resetOf (cfg : Config) (mem : Memory) (script : List Event) : State where
  cfg := cfg
  src := 0
  dst := 0
  len := 0
  progress := 0
  busy := false
  keyValid := false
  errCode := .ok
  nr := 0
  phase := .idle
  curOp := .setKey
  curSrc := 0
  curDst := 0
  curN := 0
  curI := 0
  ek := zeroKeys
  dk := zeroKeys
  mem := mem
  script := script
  hostData := .none
  busLog := []
  hostWrote := []
  engWrote := []
  freeCount := 0

/-- The machine right after reset: the default instance, memory with nothing listed, nothing pending. -/
def State.reset : State := State.resetOf Config.default [] []

end Sys2Proof.Machine
end

