-- ==== Sys2Proof/Machine/Flags.lean ====
section
/-! DEFINITION. The flags and the values that the status and capability registers are assembled from (R24, R26, R27, R32).
The engine has no condition codes (R32). -/

namespace Sys2Proof.Machine

/-- The ERRCODE number of a code (R27). -/
def ErrCode.code : ErrCode → BitVec 4
  | .ok => 0
  | .invalidKeyLength => 1
  | .keyNotSet => 2
  | .illegalCommand => 3
  | .addressRange => 4
  | .busError => 5

/-- A flag as bit 0 of a register value. -/
def flagBit (b : Bool) : Word := (BitVec.ofBool b).setWidth 64

/-- STATUS = BUSY | (KEY_VALID << 1) | (ERRCODE << 8) | (NR << 16) (R26, R238). -/
def statusWord (s : State) : Word :=
  flagBit s.busy ||| (flagBit s.keyValid <<< 1) ||| (s.errCode.code.setWidth 64 <<< 8) ||| (s.nr.setWidth 64 <<< 16)

/-- Is 16 in ACCEPTED_KEY_LENGTHS (R9)? -/
def KeyLengths.has16 : KeyLengths → Bool
  | .both => true
  | .only16 => true
  | .only32 => false

/-- Is 32 in ACCEPTED_KEY_LENGTHS (R9)? -/
def KeyLengths.has32 : KeyLengths → Bool
  | .both => true
  | .only16 => false
  | .only32 => true

/-- CAPS: BLOCK_BYTES = 16, KEY16, KEY32 (R24). -/
def capsWord (c : Config) : Word :=
  0x10 ||| (flagBit (KeyLengths.has16 c.keyLengths) <<< 8) ||| (flagBit (KeyLengths.has32 c.keyLengths) <<< 9)

/-- NAME: ENGINE_NAME (R23). -/
def nameWord (c : Config) : Word := c.engineName

/-- The value a host read of a register returns (R238). CMD holds no value and reads as 0 (R25). -/
def readReg (s : State) : HostReg → Word
  | .name => nameWord s.cfg
  | .caps => capsWord s.cfg
  | .cmd => 0
  | .status => statusWord s
  | .src => s.src
  | .dst => s.dst
  | .len => s.len
  | .progress => s.progress

end Sys2Proof.Machine
end

