-- ==== Sys2Proof/Machine/Operands.lean ====
section
/-! DEFINITION. The operands of a command: the registers SRC, DST and LEN taken whole (R73), what is checked of them at
acceptance (R54, R302), the latches they are copied to (R34), and the addresses a running command works at (R58, R236).
Address arithmetic is exact, on natural numbers (R10). -/

namespace Sys2Proof.Machine

/-- `x[LEN] in ACCEPTED_KEY_LENGTHS` (R230, R302). -/
def keyLengthAccepted (c : Config) (len : Word) : Bool :=
  (decide (len = 16) && KeyLengths.has16 c.keyLengths) || (decide (len = 32) && KeyLengths.has32 c.keyLengths)

/-- `L = 16 * x[LEN]`, exact (R73, R230). -/
def bufferLength (len : Word) : Nat := 16 * len.toNat

/-- `in_range(a, L)` (R54, R230). -/
def inRange (c : Config) (a : Word) (l : Nat) : Bool := decide (l = 0) || decide (a.toNat + l ≤ 2 ^ c.addrBits)

/-- `latch(op)` (R34, R230): all five latches, for every command that runs. -/
def State.latch (s : State) (op : Instr) : State :=
  { s with curOp := op, curSrc := s.src, curDst := s.dst, curN := s.len, curI := 0 }

/-- The address of block `i` of a buffer at `base` (R58, R236). -/
def blockAddr (base : Word) (i : BitVec 65) : Nat := base.toNat + 16 * i.toNat

/-- Is address `a` one of the `l` bytes at `base`? -/
def inBuffer (a base l : Nat) : Bool := decide (base ≤ a) && decide (a < base + l)

/-- The bytes the running command reads (R232, R233): the key, or the input buffer. -/
def State.readsByte (s : State) (a : Nat) : Bool :=
  match s.phase with
  | .idle => false
  | .key => inBuffer a s.curSrc.toNat s.curN.toNat
  | .crypt => inBuffer a s.curSrc.toNat (bufferLength s.curN)
  | .clr => false

/-- The bytes the running command writes (R233): the output buffer. -/
def State.writesByte (s : State) (a : Nat) : Bool :=
  match s.phase with
  | .idle => false
  | .key => false
  | .crypt => inBuffer a s.curDst.toNat (bufferLength s.curN)
  | .clr => false

/-- Is CRYPT about to process block CUR_I, rather than to complete (R35, R236)? -/
def State.blockPending (s : State) : Bool :=
  match s.phase with
  | .idle => false
  | .key => false
  | .crypt => decide (s.curI.toNat ≠ s.curN.toNat)
  | .clr => false

end Sys2Proof.Machine
end

