-- ==== Sys2Proof/Machine/Ops.lean ====
section
/-! DEFINITION. The named operations over memory and state: the byte memory, the engine's bus port with its errors and races
(R55, R58, R65, U8, U10), the host's memory port, and the engine's one way of ending a command, `complete`, which is also how
an error is taken (R237, R300: errors are status results; the engine takes no traps and returns from none, R310, R311). -/

namespace Sys2Proof.Machine

/-! ### The byte memory -/

/-- What an unlisted address reads as (log entry 5). -/
def Memory.unlisted : Byte := 0x00

/-- The byte at an address. -/
def Memory.read : Memory → Nat → Byte
  | [], _ => Memory.unlisted
  | (b, w) :: m, a => if a = b then w else Memory.read m a

/-- The memory with the byte at an address replaced, in canonical form. -/
def Memory.write : Memory → Nat → Byte → Memory
  | [], a, v => if v = Memory.unlisted then [] else [(a, v)]
  | (b, w) :: m, a, v =>
    if a < b then (if v = Memory.unlisted then (b, w) :: m else (a, v) :: (b, w) :: m)
    else if a = b then (if v = Memory.unlisted then m else (a, v) :: m)
    else (b, w) :: Memory.write m a v

/-- Canonical form above a bound: every address is at least `lo`, addresses rise strictly, no entry reads as unlisted. -/
def Memory.wfFrom : Nat → Memory → Bool
  | _, [] => true
  | lo, (a, v) :: m => decide (lo ≤ a) && decide (v ≠ Memory.unlisted) && Memory.wfFrom (a + 1) m

/-- Canonical form. -/
def Memory.wf (m : Memory) : Bool := Memory.wfFrom 0 m

/-- `n` bytes from address `a` on, in increasing address order. -/
def Memory.readBytes (m : Memory) (a n : Nat) : List Byte := (List.range' a n).map (Memory.read m)

/-- The memory with bytes stored from address `a` on, in increasing address order. -/
def Memory.writeBytes (m : Memory) (a : Nat) : List Byte → Memory
  | [] => m
  | v :: vs => Memory.writeBytes (Memory.write m a v) (a + 1) vs

/-- `MEM_OK(addr, kind)` (R55): an address outside host memory answers no access (R53), nor does one of the instance's bus
holes. Only the engine's port asks it (log entry 31). -/
def memOk (c : Config) (k : AccessKind) (a : Nat) : Bool :=
  decide (a < 2 ^ c.addrBits) && !c.busHoles.any fun h => decide (h.kind = k) && inBuffer a h.base h.size

/-! ### Races (R65, U8) -/

/-- The old values recorded for an address. -/
def recorded (l : List Host.Cell) (a : Nat) : List Byte := (l.filter fun c => decide (c.1 = a)).map (·.2)

/-- One of the values allowed at a byte: `v` where there is no race, else whichever of `v` and `alts` the free value picks. -/
def choose (pick : Nat) (v : Byte) (alts : List Byte) : Byte :=
  match alts with
  | [] => v
  | _ :: _ => (v :: alts).getD (pick % (alts.length + 1)) v

/-! ### The engine's port -/

/-- The access joined to the log of the command's completed accesses (R58). -/
def State.logAccesses (s : State) (k : AccessKind) (as : List Nat) : State :=
  { s with busLog := s.busLog ++ as.map (BusAccess.mk k) }

/-- An engine read of one byte: its value, or, where the host has written the byte while the command runs, an old one
(R65). -/
def State.engineByte (s : State) (a : Nat) : Byte :=
  choose (Config.freeEngineRead s.freeCount a) (s.mem.read a) (recorded s.hostWrote a)

/-- `MemRead(addr, n)` (R12): byte accesses in increasing address order, up to the first that MEM_OK refuses (R55, R300).
`none` is BUS_ERROR. -/
def State.memRead (s : State) (a n : Nat) : State × Option (List Byte) :=
  let as := List.range' a n
  (s.logAccesses .read (as.takeWhile (memOk s.cfg .read)),
    if as.all (memOk s.cfg .read) then some (as.map s.engineByte) else none)

/-- An engine write of one byte. Where the host has written the byte while the command runs, either write may stand (R65). -/
def State.engineWriteByte (s : State) (a : Nat) (v : Byte) : State :=
  let old := s.mem.read a
  let stored := choose (Config.freeEngineWrite s.freeCount a) v (if (recorded s.hostWrote a).isEmpty then [] else [old])
  { s with mem := s.mem.write a stored, engWrote := (a, old) :: s.engWrote }

/-- Engine writes of bytes from address `a` on, in increasing address order. -/
def State.engineWriteBytes (s : State) (a : Nat) : List Byte → State
  | [] => s
  | v :: vs => (s.engineWriteByte a v).engineWriteBytes (a + 1) vs

/-- The bytes at `n` addresses from `a` on take any value (U9, U10). -/
def State.freeBytes (s : State) (a n : Nat) : State :=
  { s with mem := s.mem.writeBytes a ((List.range' a n).map (Config.freeByte s.freeCount)) }

/-- `MemWrite(addr, 16, v)` (R12). `false` is BUS_ERROR at the first byte that MEM_OK refuses; the accesses before it have
taken place (R300), and all 16 bytes of the block may hold any value (R306, U10). -/
def State.memWrite (s : State) (a : Nat) (v : Vec) : State × Bool :=
  let as := List.range' a 16
  let t := s.logAccesses .write (as.takeWhile (memOk s.cfg .write))
  if as.all (memOk s.cfg .write) then (t.engineWriteBytes a (toBytes v), true) else (t.freeBytes a 16, false)

/-! ### The course of a command -/

/-- An error found at acceptance: it changes ERRCODE and nothing else (R230, R300). -/
def State.acceptError (s : State) (e : ErrCode) : State := { s with errCode := e }

/-- A command accepted to run in phase `p`: the latches, ERRCODE <- OK, BUSY <- 1, phase <- p (R230). The access log starts
anew. -/
def State.start (s : State) (op : Instr) (p : Phase) : State :=
  { s.latch op with errCode := .ok, busy := true, phase := p, busLog := [] }

/-- `complete(code)`, and `raise Error(code)` inside a step (R12, R237): ERRCODE <- code, BUSY <- 0, phase <- IDLE. The latches
are dead after it (U13: any value), and no byte is in a race any more (R63). -/
def State.complete (s : State) (e : ErrCode) : State :=
  { s with
    errCode := e
    busy := false
    phase := .idle
    curOp := Config.freeOp s.freeCount
    curSrc := Config.freeSrc s.freeCount
    curDst := Config.freeDst s.freeCount
    curN := Config.freeN s.freeCount
    curI := Config.freeI s.freeCount
    hostWrote := []
    engWrote := [] }

/-- SET_KEY's commit (R171, R232): every slot of both files, NR and KEY_VALID. -/
def State.commitKey (s : State) (k : Schedule) : State :=
  { s with ek := liveSlots k.nr k.ek, dk := liveSlots k.nr k.dk, nr := BitVec.ofNat 8 k.nr, keyValid := true }

/-- CLEAR's effect (R235): every slot of both files zero, NR and KEY_VALID 0. -/
def State.eraseKey (s : State) : State := { s with ek := zeroKeys, dk := zeroKeys, nr := 0, keyValid := false }

/-- A block done: CUR_I <- CUR_I + 1, PROGRESS <- CUR_I (R236). -/
def State.blockDone (s : State) : State := { s with curI := s.curI + 1, progress := (s.curI + 1).setWidth 64 }

/-- The transform of the running command on a block (R236): ENC_BLOCK with EK for ENCRYPT_N, else DEC_BLOCK with DK. -/
def State.transform (s : State) (b : Vec) : Vec :=
  if s.curOp = .encryptN then encBlock b s.ek s.nr.toNat else decBlock b s.dk s.nr.toNat

/-- The output block of block CUR_I, if a CRYPT step reads it without a bus error. -/
def State.blockOutput (s : State) : Option Vec :=
  if s.blockPending then ((s.memRead (blockAddr s.curSrc s.curI) 16).2).map fun bs => s.transform (ofBytes bs) else none

/-- Reset (R330, R331): every register at its reset value; memory keeps what was written, but for the destination bytes of
the block that a running command may be writing, which take any value (U9). -/
def State.resetEngine (s : State) : State :=
  let t := if s.blockPending then s.freeBytes (blockAddr s.curDst s.curI) 16 else s
  { State.resetOf s.cfg t.mem s.script with hostData := s.hostData, freeCount := s.freeCount }

/-! ### The host's memory port -/

/-- Does a run of `n` byte addresses touch the register window (R21, R53)? -/
def touchesWindow (c : Config) (a n : Nat) : Bool :=
  decide (0 < n) && decide (a < c.regBase + 64) && decide (c.regBase < a + n)

/-- The value a block step in progress would give a destination byte (R59). -/
def State.pendingBytes (s : State) (a : Nat) : List Byte :=
  match s.blockOutput with
  | none => []
  | some v =>
    if inBuffer a (blockAddr s.curDst s.curI) 16 then [lane v (laneIndex (a - blockAddr s.curDst s.curI))] else []

/-- A host read of one byte: its value, or, at a byte the running command writes, its value before or after (R65). -/
def State.hostByte (s : State) (a : Nat) : Byte :=
  choose (Config.freeHostRead s.freeCount a) (s.mem.read a)
    (if s.writesByte a then recorded s.engWrote a ++ s.pendingBytes a else [])

/-- A host write of one byte. At a byte the running command reads or writes it starts a race (R65): the value before is
recorded, and where the engine has already written the byte either write may stand. -/
def State.hostWriteByte (s : State) (a : Nat) (v : Byte) : State :=
  if s.readsByte a || s.writesByte a then
    let old := s.mem.read a
    let stored := choose (Config.freeHostWrite s.freeCount a) v (if (recorded s.engWrote a).isEmpty then [] else [old])
    { s with mem := s.mem.write a stored, hostWrote := (a, old) :: s.hostWrote }
  else { s with mem := s.mem.write a v }

/-- Host writes of bytes from address `a` on. -/
def State.hostWriteBytes (s : State) (a : Nat) : List Byte → State
  | [] => s
  | v :: vs => (s.hostWriteByte a v).hostWriteBytes (a + 1) vs

/-- One transition begins: the transition counter moves on and `rest` is what is still to come. -/
def State.advance (s : State) (rest : List Event) : State := { s with script := rest, freeCount := s.freeCount + 1 }

end Sys2Proof.Machine
end

