-- ==== Sys2Proof/Machine/Clear.lean ====
section
/-! DEFINITION. CLEAR (R235): its acceptance (R230) and its engine step. -/

namespace Sys2Proof.Machine

/-- A host write of CLEAR's word to CMD: ignored while BUSY = 1 (R231), else accepted (R230). -/
def execClear (s : State) : Host.Outcome State Fault Refusal :=
  if s.busy then .next s else .next (s.start .clear .clr)

/-- `step_CLR()` (R235). -/
def stepClr (s : State) : Host.Outcome State Fault Refusal := .next (s.eraseKey.complete .ok)

end Sys2Proof.Machine
end

