-- ==== Sys2Proof/Machine/Crypt.lean ====
section
/-! DEFINITION. ENCRYPT_N and DECRYPT_N (R233, R234): their acceptance (R230) and the CRYPT step (R236). -/

namespace Sys2Proof.Machine

/-- A host write of the word of ENCRYPT_N or DECRYPT_N to CMD: ignored while BUSY = 1 (R231), else accepted (R230). -/
def acceptCrypt (op : Instr) (s : State) : Host.Outcome State Fault Refusal :=
  if s.busy then .next s
  else if !s.keyValid then .next (s.acceptError .keyNotSet)
  else if !inRange s.cfg s.src (bufferLength s.len) || !inRange s.cfg s.dst (bufferLength s.len) then
    .next (s.acceptError .addressRange)
  else .next { s.start op .crypt with progress := 0 }

/-- ENCRYPT_N (R233). -/
def execEncryptN (s : State) : Host.Outcome State Fault Refusal := acceptCrypt .encryptN s

/-- DECRYPT_N (R234). -/
def execDecryptN (s : State) : Host.Outcome State Fault Refusal := acceptCrypt .decryptN s

/-- `step_CRYPT()` (R236): complete when every block is done, else read, transform and write block CUR_I. -/
def stepCrypt (s : State) : Host.Outcome State Fault Refusal :=
  if s.curI.toNat = s.curN.toNat then .next (s.complete .ok)
  else if s.nr = 10 ∨ s.nr = 14 then
    match s.memRead (blockAddr s.curSrc s.curI) 16 with
    | (t, none) => .next (t.complete .busError)
    | (t, some bs) =>
      match t.memWrite (blockAddr s.curDst s.curI) (s.transform (ofBytes bs)) with
      | (u, true) => .next u.blockDone
      | (u, false) => .next (u.complete .busError)
  else .refused .contractViolation

end Sys2Proof.Machine
end

