-- ==== Sys2Proof/Machine/SetKey.lean ====
section
/-! DEFINITION. SET_KEY (R232): its acceptance (R230) and its engine step. -/

namespace Sys2Proof.Machine

/-- A host write of SET_KEY's word to CMD: ignored while BUSY = 1 (R231), else accepted (R230). -/
def execSetKey (s : State) : Host.Outcome State Fault Refusal :=
  if s.busy then .next s
  else if !keyLengthAccepted s.cfg s.len then .next (s.acceptError .invalidKeyLength)
  else if !inRange s.cfg s.src s.len.toNat then .next (s.acceptError .addressRange)
  else .next (s.start .setKey .key)

/-- `step_KEY()` (R232): read the whole key, then commit its schedule; a refused byte leaves the old key. -/
def stepKey (s : State) : Host.Outcome State Fault Refusal :=
  if s.curN = 16 ∨ s.curN = 32 then
    match s.memRead s.curSrc.toNat s.curN.toNat with
    | (t, none) => .next (t.complete .busError)
    | (t, some key) => .next ((t.commitKey (keySched key)).complete .ok)
  else .refused .contractViolation

end Sys2Proof.Machine
end

