-- ==== Sys2Proof/Machine/Dispatch.lean ====
section
/-! DEFINITION. One arm per command: a host write of its word to CMD (R230, R231). -/

namespace Sys2Proof.Machine

/-- The meaning of a command word written to CMD. -/
def exec (i : Instr) (s : State) : Host.Outcome State Fault Refusal :=
  match i with
  | .setKey => Sys2Proof.Machine.execSetKey s
  | .encryptN => Sys2Proof.Machine.execEncryptN s
  | .decryptN => Sys2Proof.Machine.execDecryptN s
  | .clear => Sys2Proof.Machine.execClear s

end Sys2Proof.Machine
end

