-- ==== Sys2Proof/Machine/Sequencer.lean ====
section
/-! DEFINITION. The sequencer (R33, R35): one engine step. -/

namespace Sys2Proof.Machine

/-- One engine step. It can be taken only while phase ≠ IDLE (R230); in IDLE nothing happens. -/
def engineStep (s : State) : Host.Outcome State Fault Refusal :=
  match s.phase with
  | .idle => .next s
  | .key => stepKey s
  | .crypt => stepCrypt s
  | .clr => stepClr s

/-- `n` engine steps in a row, with no other transition between them. -/
def engineSteps : Nat → State → Host.Outcome State Fault Refusal
  | 0, s => .next s
  | n + 1, s =>
    match engineStep s with
    | .next t => engineSteps n t
    | .fault f => .fault f
    | .refused r => .refused r

end Sys2Proof.Machine
end

