-- ==== Sys2Proof/Machine/HostAccess.lean ====
section
/-! DEFINITION. The host's transitions (R230): register accesses (R22, R238 to R241), memory accesses (R53), polling (R78) and
reset (R330). -/

namespace Sys2Proof.Machine

/-- The register that a host access of `width` bytes at `addr` reaches, if the access is well formed (R22). -/
def accessedReg (c : Config) (addr width : Nat) : Option HostReg :=
  if c.regBase ≤ addr && windowAccessWellFormed (addr - c.regBase) width then regAtOffset (addr - c.regBase) else none

/-- A host write of `c` to CMD (R25): an illegal word is ignored while BUSY = 1 and else records ILLEGAL_COMMAND (R74, R304);
a command word runs its meaning. -/
def writeCmd (c : Word) (s : State) : Host.Outcome State Fault Refusal :=
  match decode c with
  | .error _ => .next (if s.busy then s else s.acceptError .illegalCommand)
  | .ok i => exec i s

/-- A host write of `v` to a register (R239, R240). -/
def writeReg (r : HostReg) (v : Word) (s : State) : Host.Outcome State Fault Refusal :=
  match r with
  | .name => .next s
  | .caps => .next s
  | .cmd => writeCmd v s
  | .status => .next s
  | .src => .next { s with src := v }
  | .dst => .next { s with dst := v }
  | .len => .next { s with len := v }
  | .progress => .next s

/-- WR (R77). -/
def hostWr (addr width : Nat) (v : Word) (s : State) : Host.Outcome State Fault Refusal :=
  match accessedReg s.cfg addr width with
  | some r => writeReg r v s
  | none => .refused .malformedRegisterAccess

/-- RD (R77): the register's value goes to the host; nothing else changes (R238). -/
def hostRd (addr width : Nat) (s : State) : Host.Outcome State Fault Refusal :=
  match accessedReg s.cfg addr width with
  | some r => .next { s with hostData := .reg (readReg s r) }
  | none => .refused .malformedRegisterAccess

/-- MW (R77): a host memory write that stays off the register window and inside host memory (R53). MEM_OK is not asked:
R12 and R55 speak of the engine's MemRead and MemWrite only, and that a host access completes at a bus hole as elsewhere is the
model's choice (DESIGN CHOICE, unsafe: log entry 31). -/
def hostMw (addr : Nat) (bs : List Byte) (s : State) : Host.Outcome State Fault Refusal :=
  if touchesWindow s.cfg addr bs.length then .refused .malformedRegisterAccess
  else if 0 < bs.length ∧ 2 ^ s.cfg.addrBits < addr + bs.length then .fault .hostAddressOutside
  else .next (s.hostWriteBytes addr bs)

/-- MR (R77): the bytes go to the host; nothing else changes. MEM_OK is not asked, as in `hostMw` (DESIGN CHOICE, unsafe: log
entry 31). -/
def hostMr (addr n : Nat) (s : State) : Host.Outcome State Fault Refusal :=
  if touchesWindow s.cfg addr n then .refused .malformedRegisterAccess
  else if 0 < n ∧ 2 ^ s.cfg.addrBits < addr + n then .fault .hostAddressOutside
  else .next { s with hostData := .bytes ((List.range' addr n).map s.hostByte) }

/-- WAIT (R78): `RD STATUS`; while bit 0 (BUSY) of the value read is 1, an engine step comes next and then another poll. -/
def hostWait (s : State) : Host.Outcome State Fault Refusal :=
  let v := readReg s .status
  let t := { s with hostData := .reg v }
  if v.getLsbD 0 then .next { t with script := .engine :: .wait :: s.script } else .next t

/-- The transition that an event asks for (R230). -/
def takeEvent (e : Event) (s : State) : Host.Outcome State Fault Refusal :=
  match e with
  | .wr addr width v => hostWr addr width v s
  | .rd addr width => hostRd addr width s
  | .mw addr bs => hostMw addr bs s
  | .mr addr n => hostMr addr n s
  | .engine => engineStep s
  | .wait => hostWait s
  | .reset => .next s.resetEngine

/-- The next transition: the first pending event, or an engine step where none is pending (R242). -/
def transition (s : State) : Host.Outcome State Fault Refusal :=
  match s.script with
  | [] => engineStep (s.advance [])
  | e :: rest => takeEvent e (s.advance rest)

/-- The event that writes the command word of a row's bits to CMD. -/
def fetchEvent (s : State) (nbits w : Nat) : Event := wrReg s.cfg.regBase .cmd (tableWord nbits w)

end Sys2Proof.Machine
end

