-- ==== Sys2Proof/Machine/Step.lean ====
section
/-! DEFINITION. One transition of the whole system, and where it takes its next command word from: the head of the pending
transitions. -/

namespace Sys2Proof.Machine

/-- One transition (R230). -/
def step (s : State) : Host.Outcome State Fault Refusal := transition s

/-- The state whose very next transition is a host write of that word to CMD. -/
def State.withFetchWord (s : State) (nbits w : Nat) : State := { s with script := fetchEvent s nbits w :: s.script }

end Sys2Proof.Machine
end

