-- ==== Sys2Proof/Machine/Reference.lean ====
section
/-! DEFINITION. The FIPS-197 reference of spec/45_reference_contract.md, written from its rules and from nothing of the
vector-permute datapath but the vector type: what ENC_BLOCK and DEC_BLOCK must equal (R270, R278). No step runs it. -/

namespace Sys2Proof.Machine.Fips

/-- `0x02·a` in GF(2^8) (R273). -/
def xtime (a : Byte) : Byte := (a <<< 1) ^^^ (if a.getLsbD 7 then 0x1B else 0x00)

/-- `a·b` in GF(2^8): the sum of `0x02^i·a` over the set bits `i` of `b` (R273). -/
def mul (a b : Byte) : Byte :=
  ((List.range 8).foldl (fun (acc : Byte × Byte) i => (if b.getLsbD i then acc.1 ^^^ acc.2 else acc.1, xtime acc.2)) (0, a)).1

/-- `a^n` in GF(2^8). -/
def pow (a : Byte) : Nat → Byte
  | 0 => 1
  | n + 1 => mul (pow a n) a

/-- The field inverse: a^254, and 0 for 0 (R273), as the product of the powers 2, 4, .., 128 of `a`. -/
def inv (a : Byte) : Byte :=
  ((List.range 7).foldl (fun (acc : Byte × Byte) _ => let sq := mul acc.2 acc.2; (mul acc.1 sq, sq)) (1, a)).1

/-- The S-box S, by its bit equation (R271). -/
def sbox (x : Byte) : Byte :=
  let b := inv x
  b ^^^ b.rotateRight 4 ^^^ b.rotateRight 5 ^^^ b.rotateRight 6 ^^^ b.rotateRight 7 ^^^ 0x63

/-- The table of S that R271 prints, rows 0_ to 7_. -/
def sboxTableLow : List Byte :=
  [0x63, 0x7C, 0x77, 0x7B, 0xF2, 0x6B, 0x6F, 0xC5, 0x30, 0x01, 0x67, 0x2B, 0xFE, 0xD7, 0xAB, 0x76] ++
  [0xCA, 0x82, 0xC9, 0x7D, 0xFA, 0x59, 0x47, 0xF0, 0xAD, 0xD4, 0xA2, 0xAF, 0x9C, 0xA4, 0x72, 0xC0] ++
  [0xB7, 0xFD, 0x93, 0x26, 0x36, 0x3F, 0xF7, 0xCC, 0x34, 0xA5, 0xE5, 0xF1, 0x71, 0xD8, 0x31, 0x15] ++
  [0x04, 0xC7, 0x23, 0xC3, 0x18, 0x96, 0x05, 0x9A, 0x07, 0x12, 0x80, 0xE2, 0xEB, 0x27, 0xB2, 0x75] ++
  [0x09, 0x83, 0x2C, 0x1A, 0x1B, 0x6E, 0x5A, 0xA0, 0x52, 0x3B, 0xD6, 0xB3, 0x29, 0xE3, 0x2F, 0x84] ++
  [0x53, 0xD1, 0x00, 0xED, 0x20, 0xFC, 0xB1, 0x5B, 0x6A, 0xCB, 0xBE, 0x39, 0x4A, 0x4C, 0x58, 0xCF] ++
  [0xD0, 0xEF, 0xAA, 0xFB, 0x43, 0x4D, 0x33, 0x85, 0x45, 0xF9, 0x02, 0x7F, 0x50, 0x3C, 0x9F, 0xA8] ++
  [0x51, 0xA3, 0x40, 0x8F, 0x92, 0x9D, 0x38, 0xF5, 0xBC, 0xB6, 0xDA, 0x21, 0x10, 0xFF, 0xF3, 0xD2]

/-- The table of S that R271 prints, rows 8_ to F_. -/
def sboxTableHigh : List Byte :=
  [0xCD, 0x0C, 0x13, 0xEC, 0x5F, 0x97, 0x44, 0x17, 0xC4, 0xA7, 0x7E, 0x3D, 0x64, 0x5D, 0x19, 0x73] ++
  [0x60, 0x81, 0x4F, 0xDC, 0x22, 0x2A, 0x90, 0x88, 0x46, 0xEE, 0xB8, 0x14, 0xDE, 0x5E, 0x0B, 0xDB] ++
  [0xE0, 0x32, 0x3A, 0x0A, 0x49, 0x06, 0x24, 0x5C, 0xC2, 0xD3, 0xAC, 0x62, 0x91, 0x95, 0xE4, 0x79] ++
  [0xE7, 0xC8, 0x37, 0x6D, 0x8D, 0xD5, 0x4E, 0xA9, 0x6C, 0x56, 0xF4, 0xEA, 0x65, 0x7A, 0xAE, 0x08] ++
  [0xBA, 0x78, 0x25, 0x2E, 0x1C, 0xA6, 0xB4, 0xC6, 0xE8, 0xDD, 0x74, 0x1F, 0x4B, 0xBD, 0x8B, 0x8A] ++
  [0x70, 0x3E, 0xB5, 0x66, 0x48, 0x03, 0xF6, 0x0E, 0x61, 0x35, 0x57, 0xB9, 0x86, 0xC1, 0x1D, 0x9E] ++
  [0xE1, 0xF8, 0x98, 0x11, 0x69, 0xD9, 0x8E, 0x94, 0x9B, 0x1E, 0x87, 0xE9, 0xCE, 0x55, 0x28, 0xDF] ++
  [0x8C, 0xA1, 0x89, 0x0D, 0xBF, 0xE6, 0x42, 0x68, 0x41, 0x99, 0x2D, 0x0F, 0xB0, 0x54, 0xBB, 0x16]

/-- The table of S that R271 prints. -/
def sboxTable : List Byte := sboxTableLow ++ sboxTableHigh

/-- The table of InvS that R272 prints, rows 0_ to 7_. -/
def invSboxTableLow : List Byte :=
  [0x52, 0x09, 0x6A, 0xD5, 0x30, 0x36, 0xA5, 0x38, 0xBF, 0x40, 0xA3, 0x9E, 0x81, 0xF3, 0xD7, 0xFB] ++
  [0x7C, 0xE3, 0x39, 0x82, 0x9B, 0x2F, 0xFF, 0x87, 0x34, 0x8E, 0x43, 0x44, 0xC4, 0xDE, 0xE9, 0xCB] ++
  [0x54, 0x7B, 0x94, 0x32, 0xA6, 0xC2, 0x23, 0x3D, 0xEE, 0x4C, 0x95, 0x0B, 0x42, 0xFA, 0xC3, 0x4E] ++
  [0x08, 0x2E, 0xA1, 0x66, 0x28, 0xD9, 0x24, 0xB2, 0x76, 0x5B, 0xA2, 0x49, 0x6D, 0x8B, 0xD1, 0x25] ++
  [0x72, 0xF8, 0xF6, 0x64, 0x86, 0x68, 0x98, 0x16, 0xD4, 0xA4, 0x5C, 0xCC, 0x5D, 0x65, 0xB6, 0x92] ++
  [0x6C, 0x70, 0x48, 0x50, 0xFD, 0xED, 0xB9, 0xDA, 0x5E, 0x15, 0x46, 0x57, 0xA7, 0x8D, 0x9D, 0x84] ++
  [0x90, 0xD8, 0xAB, 0x00, 0x8C, 0xBC, 0xD3, 0x0A, 0xF7, 0xE4, 0x58, 0x05, 0xB8, 0xB3, 0x45, 0x06] ++
  [0xD0, 0x2C, 0x1E, 0x8F, 0xCA, 0x3F, 0x0F, 0x02, 0xC1, 0xAF, 0xBD, 0x03, 0x01, 0x13, 0x8A, 0x6B]

/-- The table of InvS that R272 prints, rows 8_ to F_. -/
def invSboxTableHigh : List Byte :=
  [0x3A, 0x91, 0x11, 0x41, 0x4F, 0x67, 0xDC, 0xEA, 0x97, 0xF2, 0xCF, 0xCE, 0xF0, 0xB4, 0xE6, 0x73] ++
  [0x96, 0xAC, 0x74, 0x22, 0xE7, 0xAD, 0x35, 0x85, 0xE2, 0xF9, 0x37, 0xE8, 0x1C, 0x75, 0xDF, 0x6E] ++
  [0x47, 0xF1, 0x1A, 0x71, 0x1D, 0x29, 0xC5, 0x89, 0x6F, 0xB7, 0x62, 0x0E, 0xAA, 0x18, 0xBE, 0x1B] ++
  [0xFC, 0x56, 0x3E, 0x4B, 0xC6, 0xD2, 0x79, 0x20, 0x9A, 0xDB, 0xC0, 0xFE, 0x78, 0xCD, 0x5A, 0xF4] ++
  [0x1F, 0xDD, 0xA8, 0x33, 0x88, 0x07, 0xC7, 0x31, 0xB1, 0x12, 0x10, 0x59, 0x27, 0x80, 0xEC, 0x5F] ++
  [0x60, 0x51, 0x7F, 0xA9, 0x19, 0xB5, 0x4A, 0x0D, 0x2D, 0xE5, 0x7A, 0x9F, 0x93, 0xC9, 0x9C, 0xEF] ++
  [0xA0, 0xE0, 0x3B, 0x4D, 0xAE, 0x2A, 0xF5, 0xB0, 0xC8, 0xEB, 0xBB, 0x3C, 0x83, 0x53, 0x99, 0x61] ++
  [0x17, 0x2B, 0x04, 0x7E, 0xBA, 0x77, 0xD6, 0x26, 0xE1, 0x69, 0x14, 0x63, 0x55, 0x21, 0x0C, 0x7D]

/-- The table of InvS that R272 prints. -/
def invSboxTable : List Byte := invSboxTableLow ++ invSboxTableHigh

/-- The inverse S-box InvS, by its table (R272). -/
def invSbox (x : Byte) : Byte := invSboxTable.getD x.toNat 0

/-! ### The state: lane `4c + r` is s[r, c] (R277) -/

/-- SubBytes (R277). -/
def subBytes (s : Vec) : Vec := ofLanes fun j => sbox (lane s j)

/-- InvSubBytes (R277). -/
def invSubBytes (s : Vec) : Vec := ofLanes fun j => invSbox (lane s j)

/-- s[r, c], with `c` taken mod 4 (R277). -/
def cell (s : Vec) (r c : Nat) : Byte := lane s (laneIndex (4 * (c % 4) + r % 4))

/-- The state whose s[r, c] is `f r c` (R277). -/
def ofCells (f : Nat → Nat → Byte) : Vec := ofLanes fun j => f (j.val % 4) (j.val / 4)

/-- ShiftRows: s'[r, c] = s[r, (c + r) mod 4] (R277). -/
def shiftRows (s : Vec) : Vec := ofCells fun r c => cell s r (c + r)

/-- InvShiftRows: s'[r, c] = s[r, (c − r) mod 4] (R277). -/
def invShiftRows (s : Vec) : Vec := ofCells fun r c => cell s r (c + 4 - r)

/-- MixColumns, row by row: 2·a_r ^ 3·a_(r+1) ^ a_(r+2) ^ a_(r+3) (R277). -/
def mixColumns (s : Vec) : Vec :=
  ofCells fun r c => mul 0x02 (cell s r c) ^^^ mul 0x03 (cell s (r + 1) c) ^^^ cell s (r + 2) c ^^^ cell s (r + 3) c

/-- InvMixColumns, row by row: 0E·a_r ^ 0B·a_(r+1) ^ 0D·a_(r+2) ^ 09·a_(r+3) (R277). -/
def invMixColumns (s : Vec) : Vec :=
  ofCells fun r c => mul 0x0E (cell s r c) ^^^ mul 0x0B (cell s (r + 1) c) ^^^ mul 0x0D (cell s (r + 2) c) ^^^
    mul 0x09 (cell s (r + 3) c)

/-! ### Key expansion (R274) -/

/-- A key-expansion word: 4 bytes, first byte first. -/
structure Quad where
  b0 : Byte
  b1 : Byte
  b2 : Byte
  b3 : Byte
deriving DecidableEq, Repr

/-- Bytewise XOR of two words. -/
def Quad.xor (x y : Quad) : Quad := ⟨x.b0 ^^^ y.b0, x.b1 ^^^ y.b1, x.b2 ^^^ y.b2, x.b3 ^^^ y.b3⟩

/-- RotWord. -/
def rotWord (x : Quad) : Quad := ⟨x.b1, x.b2, x.b3, x.b0⟩

/-- SubWord. -/
def subWord (x : Quad) : Quad := ⟨sbox x.b0, sbox x.b1, sbox x.b2, sbox x.b3⟩

/-- Rcon[j] = 0x02^(j−1), j ≥ 1. -/
def rcon (j : Nat) : Byte := pow 0x02 (j - 1)

/-- Word `i` of the key itself: bytes 4i .. 4i+3. -/
def keyWord (key : List Byte) (i : Nat) : Quad :=
  ⟨key.getD (4 * i) 0, key.getD (4 * i + 1) 0, key.getD (4 * i + 2) 0, key.getD (4 * i + 3) 0⟩

/-- The word that follows the words `ws` (w[0] first, at least Nk of them). -/
def nextWord (nk : Nat) (ws : List Quad) : Quad :=
  let i := ws.length
  let w := fun k => ws.getD k ⟨0, 0, 0, 0⟩
  let temp := w (i - 1)
  let temp :=
    if i % nk = 0 then (subWord (rotWord temp)).xor ⟨rcon (i / nk), 0, 0, 0⟩
    else if nk = 8 ∧ i % 8 = 4 then subWord temp
    else temp
  (w (i - nk)).xor temp

/-- `n` more words after `ws`. -/
def expandFrom (nk : Nat) (ws : List Quad) : Nat → List Quad
  | 0 => ws
  | n + 1 => expandFrom nk (ws ++ [nextWord nk ws]) n

/-- Nk of a key: its length in bytes / 4. -/
def nk (key : List Byte) : Nat := key.length / 4

/-- Nr of a key: 10 for Nk = 4, 14 for Nk = 8. -/
def nr (key : List Byte) : Nat := nk key + 6

/-- KeyExpansion: the words w[0] .. w[4(Nr + 1) − 1]. -/
def keyExpansion (key : List Byte) : List Quad :=
  expandFrom (nk key) ((List.range (nk key)).map (keyWord key)) (4 * (nr key + 1) - nk key)

/-- The vector of the 16 bytes of w[4r] .. w[4r+3]. -/
def roundKeyOf (ws : List Quad) (r : Nat) : Vec :=
  ofBytes ((List.range 4).flatMap fun k => let q := ws.getD (4 * r + k) ⟨0, 0, 0, 0⟩; [q.b0, q.b1, q.b2, q.b3])

/-- Round key w_r (R274). -/
def roundKey (key : List Byte) (r : Nat) : Vec := roundKeyOf (keyExpansion key) r

/-! ### Cipher and inverse cipher -/

/-- The cipher state after round `r`, r ≤ Nr − 1: after AddRoundKey (R275, R202). -/
def stateAfter (p : Vec) (key : List Byte) : Nat → Vec
  | 0 => p ^^^ roundKey key 0
  | r + 1 => mixColumns (shiftRows (subBytes (stateAfter p key r))) ^^^ roundKey key (r + 1)

/-- Cipher(in, key) (R275). -/
def cipher (p : Vec) (key : List Byte) : Vec :=
  shiftRows (subBytes (stateAfter p key (nr key - 1))) ^^^ roundKey key (nr key)

/-- The inverse cipher's state after the rounds Nr − 1 down to Nr − n (R276). -/
def invStateAfter (c : Vec) (key : List Byte) : Nat → Vec
  | 0 => c ^^^ roundKey key (nr key)
  | n + 1 => invMixColumns (invSubBytes (invShiftRows (invStateAfter c key n)) ^^^ roundKey key (nr key - 1 - n))

/-- InvCipher(in, key) (R276). -/
def invCipher (c : Vec) (key : List Byte) : Vec :=
  invSubBytes (invShiftRows (invStateAfter c key (nr key - 1))) ^^^ roundKey key 0

end Sys2Proof.Machine.Fips
end

