-- ==== Sys2Proof/Safety.lean ====
section
/-! DEFINITION. The terms in which claims about runs are stated: the invariant of the machine, what one state leaves of
another, where the platform answers every access, and what a run shows that does not know the secrets. -/

namespace Sys2Proof.Machine

/-! ### What stays -/

/-- The parameters and the operand registers are the same. -/
def SameOperands (s t : State) : Prop := t.cfg = s.cfg ∧ t.src = s.src ∧ t.dst = s.dst ∧ t.len = s.len

/-- The loaded key is the same: KEY_VALID, NR and every slot of EK and DK. -/
def SameKey (s t : State) : Prop := t.keyValid = s.keyValid ∧ t.nr = s.nr ∧ t.ek = s.ek ∧ t.dk = s.dk

/-- The latches and the phase are the same. -/
def SameCommand (s t : State) : Prop :=
  t.phase = s.phase ∧ t.curOp = s.curOp ∧ t.curSrc = s.curSrc ∧ t.curDst = s.curDst ∧ t.curN = s.curN ∧ t.curI = s.curI

/-- The host's side is the same: the pending transitions, what its latest read returned, the transition counter. -/
def SameHostSide (s t : State) : Prop := t.script = s.script ∧ t.hostData = s.hostData ∧ t.freeCount = s.freeCount

/-- Every byte of memory reads as before. -/
def SameMemory (s t : State) : Prop := ∀ x, t.mem.read x = s.mem.read x

/-- Every byte of memory outside the `n` bytes at `a` reads as before. -/
def SameMemoryOutside (s t : State) (a n : Nat) : Prop := ∀ x, ¬ (a ≤ x ∧ x < a + n) → t.mem.read x = s.mem.read x

/-- The engine is idle and the last command ended with code `e` (R237). -/
def EndedWith (t : State) (e : ErrCode) : Prop :=
  t.errCode = e ∧ t.busy = false ∧ t.phase = .idle ∧ t.hostWrote = [] ∧ t.engWrote = []

/-! ### The platform -/

/-- MEM_OK holds of every one of the `n` bytes at `a` (R55). -/
def PlatformAnswers (c : Config) (k : AccessKind) (a n : Nat) : Prop := ∀ x, a ≤ x → x < a + n → memOk c k x = true

/-- No byte is in a race: no host access has touched the buffers of the running command (R65). -/
def NoRace (s : State) : Prop := s.hostWrote = [] ∧ s.engWrote = []

/-! ### The key -/

/-- The machine holds the schedule of `key` (R38): NR, and EK and DK with the slots above NR zero. -/
def HoldsKey (s : State) (key : List Byte) : Prop :=
  s.nr = BitVec.ofNat 8 (keySched key).nr ∧ s.ek = liveSlots (keySched key).nr (keySched key).ek ∧
    s.dk = liveSlots (keySched key).nr (keySched key).dk

/-- A key of 16 or 32 bytes (R3). -/
def AesKey (key : List Byte) : Prop := key.length = 16 ∨ key.length = 32

/-! ### The batch -/

/-- Memory after the first `n` blocks of a batch that applies `f`, one block after the other, each reading memory as the
previous block left it (R62). -/
def ecbInOrder (f : Vec → Vec) (m : Memory) (src dst : Nat) : Nat → Memory
  | 0 => m
  | i + 1 =>
    let before := ecbInOrder f m src dst i
    before.writeBytes (dst + 16 * i) (toBytes (f (ofBytes (before.readBytes (src + 16 * i) 16))))

/-- The block that a CRYPT step makes of the bytes it has read (R236): ENC_BLOCK under EK when ENCRYPT_N runs, else DEC_BLOCK under
DK. -/
def State.blockFrom (s : State) (bs : List Byte) : Vec :=
  if s.curOp = .encryptN then encBlock (ofBytes bs) s.ek s.nr.toNat else decBlock (ofBytes bs) s.dk s.nr.toNat

/-- The byte accesses of the first `n` blocks of a batch, in order: the 16 reads of a block, then its 16 writes (R58). -/
def batchAccesses (src dst : Nat) : Nat → List BusAccess
  | 0 => []
  | i + 1 =>
    batchAccesses src dst i ++ (List.range' (src + 16 * i) 16).map (BusAccess.mk .read) ++
      (List.range' (dst + 16 * i) 16).map (BusAccess.mk .write)

/-! ### The invariant -/

/-- The invariant that every transition keeps. -/
structure State.Inv (s : State) : Prop where
  /-- BUSY = 1 exactly when phase ≠ IDLE (R33). -/
  busy_iff : s.busy = true ↔ s.phase ≠ .idle
  /-- While BUSY = 1, ERRCODE reads 0 (R337). -/
  busy_ok : s.busy = true → s.errCode = .ok
  /-- Memory is in canonical form. -/
  mem_wf : Memory.wf s.mem = true
  /-- Without a key: NR = 0 and every slot is zero (R38). -/
  no_key : s.keyValid = false → s.nr = 0 ∧ s.ek = zeroKeys ∧ s.dk = zeroKeys
  /-- With a key: the files hold the schedule of one key (R38). -/
  key : s.keyValid = true → ∃ key, AesKey key ∧ HoldsKey s key
  /-- KEY runs a SET_KEY whose latched operands were checked at acceptance (R230, R33). -/
  key_phase : s.phase = .key →
    s.curOp = .setKey ∧ keyLengthAccepted s.cfg s.curN = true ∧ inRange s.cfg s.curSrc s.curN.toNat = true
  /-- CRYPT runs an ENCRYPT_N or DECRYPT_N with a loaded key on checked buffers, at block CUR_I ≤ CUR_N, and PROGRESS is CUR_I
  (R31, R33, R35, R230). -/
  crypt_phase : s.phase = .crypt →
    (s.curOp = .encryptN ∨ s.curOp = .decryptN) ∧ s.keyValid = true ∧ s.curI.toNat ≤ s.curN.toNat ∧
      s.progress.toNat = s.curI.toNat ∧ inRange s.cfg s.curSrc (bufferLength s.curN) = true ∧
      inRange s.cfg s.curDst (bufferLength s.curN) = true
  /-- CLR runs a CLEAR (R33). -/
  clr_phase : s.phase = .clr → s.curOp = .clear
  /-- While no command runs, no byte is in a race (R65). -/
  idle_no_race : s.phase = .idle → NoRace s

/-! ### What a run shows without its secrets -/

/-- A host read's answer without the memory bytes in it: their number is kept. -/
def HostData.hideBytes : HostData → HostData
  | .none => .none
  | .reg v => .reg v
  | .bytes bs => .bytes (bs.map fun _ => 0)

/-- The state without what may be secret: the round keys, the contents of memory, and the memory bytes that races recorded or
host reads returned. What is left holds every register a host can read, the phase, the latches and the access log. -/
def State.publicView (s : State) : State :=
  { s with
    ek := zeroKeys
    dk := zeroKeys
    mem := []
    hostData := s.hostData.hideBytes
    hostWrote := s.hostWrote.map fun c => (c.1, 0)
    engWrote := s.engWrote.map fun c => (c.1, 0) }

/-- An outcome without what may be secret. -/
def publicOutcome : Host.Outcome State Fault Refusal → Host.Outcome State Fault Refusal
  | .next s => .next s.publicView
  | .fault f => .fault f
  | .refused r => .refused r

end Sys2Proof.Machine
end

