-- ==== Sys2Proof/Certificates/Slice0/Obligations.lean ====
section
/-! DEFINITION. The statements for the provers, one definition each, in the order of OBLIGATIONS.json. -/

open Sys2Proof Sys2Proof.Machine

/-! ### Command words -/

/-- R76: each of the four command words decodes to its command, nothing else does, and every other word is illegal. -/
def Obligations.DecodeReadsExactlyTheFourCommandWords : Prop :=
  ∀ c : Word,
    (decode c = .ok .setKey ↔ c = 0x1) ∧ (decode c = .ok .encryptN ↔ c = 0x2) ∧ (decode c = .ok .decryptN ↔ c = 0x3) ∧
      (decode c = .ok .clear ↔ c = 0x4) ∧
      ((∃ e, decode c = .error e) ↔ c ≠ 0x1 ∧ c ≠ 0x2 ∧ c ≠ 0x3 ∧ c ≠ 0x4)

/-- Decode and encode agree in both directions, for every command (the four are all of `Instr`) and every 64-bit word: the
encoded command decodes to it, and no other word does. -/
def Obligations.DecodeOfEncodeIsTheCommand : Prop :=
  ∀ (i : Instr) (c : Word), i.wellFormed = true ∧ (decode c = .ok i ↔ c = encode i)

/-- R71: the words written out from the table decode to the commands of their rows. -/
def Obligations.TableRowWordsDecode : Prop :=
  decodeTableWord 64 0x1 = some .setKey ∧ decodeTableWord 64 0x2 = some .encryptN ∧
    decodeTableWord 64 0x3 = some .decryptN ∧ decodeTableWord 64 0x4 = some .clear ∧ decodeTableWord 64 0x12 = none ∧
    decodeTableWord 64 0x0 = none ∧ decodeTableWord 64 0x8000000000000001 = none

/-- R230, R242: a step whose pending transition is a host write of a command word to CMD is `exec` of the decoded command, at
the state with that transition taken off and the transition counter advanced (`State.advance`); `withFetchWord` pends such a
write. With an engine step pending, or with nothing pending, a step is `engineStep` of that advanced state, which in phase IDLE
leaves it as it is. Acceptance looks at neither the pending list nor the counter, so what other statements say of `exec` followed
by `engineStep` they say of the steps of a run. (The pending list, the counter and a step with nothing to do are the model's: log
entries 8, 11, 14 and 16.) -/
def Obligations.CommandWriteRunsTheDecodedCommand : Prop :=
  (∀ (s : State) (c : Word) (i : Instr) (rest : List Event),
    s.script = wrReg s.cfg.regBase .cmd c :: rest → decode c = .ok i → step s = exec i (s.advance rest)) ∧
  (∀ (s : State) (w : Nat) (i : Instr),
    decodeTableWord 64 w = some i → step (s.withFetchWord 64 w) = exec i (s.advance s.script)) ∧
  (∀ s : State, s.script = [] → step s = engineStep (s.advance [])) ∧
  (∀ (s : State) (rest : List Event), s.script = .engine :: rest → step s = engineStep (s.advance rest)) ∧
  (∀ s : State, s.phase = .idle → engineStep s = .next s) ∧
  ∀ (i : Instr) (s t : State) (rest : List Event), exec i s = .next t → exec i (s.advance rest) = .next (t.advance rest)

/-- R74: a word with OP 0x0 or in 0x5..0xF, or with a bit of [63:4] set, records ILLEGAL_COMMAND (3) while BUSY = 0 and
nothing else, and is ignored while BUSY = 1. -/
def Obligations.IllegalWordRecordsIllegalCommand : Prop :=
  ErrCode.illegalCommand.code = 3 ∧
  ∀ (s : State) (c : Word) (rest : List Event),
    (c.extractLsb' 0 4 = 0x0 ∨ 0x5 ≤ (c.extractLsb' 0 4).toNat ∨ c >>> 4 ≠ 0) →
    s.script = wrReg s.cfg.regBase .cmd c :: rest →
    (s.busy = false → step s = .next { s.advance rest with errCode := .illegalCommand }) ∧
      (s.busy = true → step s = .next (s.advance rest))

/-- R231: while BUSY = 1 a write of any word to CMD changes nothing (but that the transition is taken). -/
def Obligations.BusyEngineIgnoresEveryCommandWrite : Prop :=
  ∀ (s : State) (c : Word) (rest : List Event),
    s.busy = true → s.script = wrReg s.cfg.regBase .cmd c :: rest → step s = .next (s.advance rest)

/-! ### Acceptance -/

/-- R230, R34: SET_KEY with an accepted key length and a key buffer in range is accepted: latches, ERRCODE <- OK, BUSY <- 1,
phase <- KEY, and nothing else (the model's own access log starts anew: log entry 9). -/
def Obligations.SetKeyIsAccepted : Prop :=
  ∀ s : State, s.busy = false →
    ((s.len = 16 ∧ s.cfg.keyLengths ≠ .only32) ∨ (s.len = 32 ∧ s.cfg.keyLengths ≠ .only16)) →
    s.src.toNat + s.len.toNat ≤ 2 ^ s.cfg.addrBits →
    exec .setKey s = .next { s with
      curOp := .setKey, curSrc := s.src, curDst := s.dst, curN := s.len, curI := 0
      errCode := .ok, busy := true, phase := .key, busLog := [] }

/-- R302: SET_KEY with a length that is not accepted records INVALID_KEY_LENGTH (1) and changes nothing else; by default 16
and 32 are accepted, and no instance accepts another length, such as 0 or 24. -/
def Obligations.SetKeyRejectsOtherKeyLengths : Prop :=
  ErrCode.invalidKeyLength.code = 1 ∧
  ∀ s : State, s.busy = false →
    (¬ ((s.len = 16 ∧ s.cfg.keyLengths ≠ .only32) ∨ (s.len = 32 ∧ s.cfg.keyLengths ≠ .only16)) ↔
      exec .setKey s = .next { s with errCode := .invalidKeyLength })

/-- R230, R233, R234: ENCRYPT_N and DECRYPT_N with a loaded key and both buffers in range (any buffer is, when LEN = 0) are
accepted: latches, PROGRESS <- 0, ERRCODE <- OK, BUSY <- 1, phase <- CRYPT. -/
def Obligations.CryptCommandsAreAccepted : Prop :=
  ∀ s : State, s.busy = false → s.keyValid = true →
    (s.len = 0 ∨ (s.src.toNat + 16 * s.len.toNat ≤ 2 ^ s.cfg.addrBits ∧ s.dst.toNat + 16 * s.len.toNat ≤ 2 ^ s.cfg.addrBits)) →
    exec .encryptN s = .next { s with
      curOp := .encryptN, curSrc := s.src, curDst := s.dst, curN := s.len, curI := 0
      progress := 0, errCode := .ok, busy := true, phase := .crypt, busLog := [] } ∧
    exec .decryptN s = .next { s with
      curOp := .decryptN, curSrc := s.src, curDst := s.dst, curN := s.len, curI := 0
      progress := 0, errCode := .ok, busy := true, phase := .crypt, busLog := [] }

/-- R303: without a key ENCRYPT_N and DECRYPT_N record KEY_NOT_SET (2) and change nothing else, whatever LEN and the buffers
are. -/
def Obligations.CryptCommandsNeedAKey : Prop :=
  ErrCode.keyNotSet.code = 2 ∧
  ∀ s : State, s.busy = false → s.keyValid = false →
    exec .encryptN s = .next { s with errCode := .keyNotSet } ∧ exec .decryptN s = .next { s with errCode := .keyNotSet }

/-- R305: a non-empty buffer that ends past 2^ADDR_BITS records ADDRESS_RANGE (4) and changes nothing else (no access
happens): the key buffer of SET_KEY, and the input or output buffer of ENCRYPT_N and DECRYPT_N. -/
def Obligations.BuffersOutOfRangeAreRejected : Prop :=
  ErrCode.addressRange.code = 4 ∧
  (∀ s : State, s.busy = false →
    ((s.len = 16 ∧ s.cfg.keyLengths ≠ .only32) ∨ (s.len = 32 ∧ s.cfg.keyLengths ≠ .only16)) →
    2 ^ s.cfg.addrBits < s.src.toNat + s.len.toNat →
    exec .setKey s = .next { s with errCode := .addressRange }) ∧
  (∀ s : State, s.busy = false → s.keyValid = true → s.len ≠ 0 →
    (2 ^ s.cfg.addrBits < s.src.toNat + 16 * s.len.toNat ∨ 2 ^ s.cfg.addrBits < s.dst.toNat + 16 * s.len.toNat) →
    exec .encryptN s = .next { s with errCode := .addressRange } ∧
      exec .decryptN s = .next { s with errCode := .addressRange })

/-- R230, R235: CLEAR is accepted in every state with BUSY = 0, with or without a key. -/
def Obligations.ClearIsAccepted : Prop :=
  ∀ s : State, s.busy = false →
    exec .clear s = .next { s with
      curOp := .clear, curSrc := s.src, curDst := s.dst, curN := s.len, curI := 0
      errCode := .ok, busy := true, phase := .clr, busLog := [] }

/-! ### Whole commands -/

/-- R232, R171, R58: an accepted SET_KEY whose key bytes the platform lets it read loads the schedule of those bytes in one
step: every slot, NR, KEY_VALID; it ends OK, having read the key bytes in address order and nothing else (log entry 9); operands, PROGRESS
and memory stay. -/
def Obligations.SetKeyLoadsTheKeySchedule : Prop :=
  ∀ s : State, s.busy = false → NoRace s →
    ((s.len = 16 ∧ s.cfg.keyLengths ≠ .only32) ∨ (s.len = 32 ∧ s.cfg.keyLengths ≠ .only16)) →
    s.src.toNat + s.len.toNat ≤ 2 ^ s.cfg.addrBits →
    PlatformAnswers s.cfg .read s.src.toNat s.len.toNat →
    ∃ t u : State, exec .setKey s = .next t ∧ engineStep t = .next u ∧
      HoldsKey u (s.mem.readBytes s.src.toNat s.len.toNat) ∧
      u.nr = (if s.len = 16 then 10 else 14) ∧ u.keyValid = true ∧
      (∀ j, u.nr.toNat < j → slot u.ek j = zero ∧ slot u.dk j = zero) ∧
      EndedWith u .ok ∧ u.busLog = (List.range' s.src.toNat s.len.toNat).map (BusAccess.mk .read) ∧
      SameOperands s u ∧ SameMemory s u ∧ SameHostSide s u ∧ u.progress = s.progress

/-- R306, R232: an accepted SET_KEY with a key byte that the platform refuses ends with BUS_ERROR (5) in one step and leaves
the key, whatever it was, the operands, PROGRESS and memory as they were. -/
def Obligations.SetKeyBusErrorKeepsTheOldKey : Prop :=
  ErrCode.busError.code = 5 ∧
  ∀ (s : State) (x : Nat), s.busy = false →
    ((s.len = 16 ∧ s.cfg.keyLengths ≠ .only32) ∨ (s.len = 32 ∧ s.cfg.keyLengths ≠ .only16)) →
    s.src.toNat + s.len.toNat ≤ 2 ^ s.cfg.addrBits →
    s.src.toNat ≤ x → x < s.src.toNat + s.len.toNat → memOk s.cfg .read x = false →
    ∃ t u : State, exec .setKey s = .next t ∧ engineStep t = .next u ∧ EndedWith u .busError ∧ SameKey s u ∧
      SameOperands s u ∧ SameMemory s u ∧ SameHostSide s u ∧ u.progress = s.progress

/-- R235: CLEAR zeroes all thirty slots, NR and KEY_VALID in one step from any idle state, and STATUS then reads 0; operands,
PROGRESS and memory stay and no byte is accessed. -/
def Obligations.ClearErasesTheKey : Prop :=
  ∀ s : State, s.busy = false →
    ∃ t u : State, exec .clear s = .next t ∧ engineStep t = .next u ∧
      (∀ j, slot u.ek j = zero ∧ slot u.dk j = zero) ∧ u.nr = 0 ∧ u.keyValid = false ∧ readReg u .status = 0 ∧
      EndedWith u .ok ∧ u.busLog = [] ∧ SameOperands s u ∧ SameMemory s u ∧ SameHostSide s u ∧ u.progress = s.progress

/-- R236, R58: a CRYPT step with a block left, no race and a platform that answers stores the transform of the block at
CUR_SRC + 16·CUR_I to CUR_DST + 16·CUR_I, having made the 16 reads and then the 16 writes in address order (log entry 9); CUR_I and PROGRESS
go up to CUR_I + 1; every other byte, the key, the operands and the other latches stay, and the command runs on. -/
def Obligations.CryptStepProcessesOneBlock : Prop :=
  ∀ s : State, s.phase = .crypt → s.curI.toNat < s.curN.toNat → (s.nr = 10 ∨ s.nr = 14) → s.hostWrote = [] →
    Memory.wf s.mem = true →
    PlatformAnswers s.cfg .read (s.curSrc.toNat + 16 * s.curI.toNat) 16 →
    PlatformAnswers s.cfg .write (s.curDst.toNat + 16 * s.curI.toNat) 16 →
    ∃ t : State, engineStep s = .next t ∧
      (∀ j : Fin 16, t.mem.read (s.curDst.toNat + 16 * s.curI.toNat + j.val) =
        lane (let b := ofBytes (s.mem.readBytes (s.curSrc.toNat + 16 * s.curI.toNat) 16)
          if s.curOp = .encryptN then encBlock b s.ek s.nr.toNat else decBlock b s.dk s.nr.toNat) j) ∧
      SameMemoryOutside s t (s.curDst.toNat + 16 * s.curI.toNat) 16 ∧
      t.curI.toNat = s.curI.toNat + 1 ∧ t.progress.toNat = s.curI.toNat + 1 ∧
      t.busLog = s.busLog ++ (List.range' (s.curSrc.toNat + 16 * s.curI.toNat) 16).map (BusAccess.mk .read) ++
        (List.range' (s.curDst.toNat + 16 * s.curI.toNat) 16).map (BusAccess.mk .write) ∧
      SameKey s t ∧ SameOperands s t ∧ SameHostSide s t ∧ t.busy = s.busy ∧ t.errCode = s.errCode ∧ t.phase = s.phase ∧
      t.curOp = s.curOp ∧ t.curSrc = s.curSrc ∧ t.curDst = s.curDst ∧ t.curN = s.curN ∧ t.hostWrote = []

/-- R236, R237: when CUR_I = CUR_N the CRYPT step completes with OK and changes neither memory, the key, PROGRESS nor the
operands, and accesses no byte. -/
def Obligations.CryptStepCompletesWhenAllBlocksAreDone : Prop :=
  ∀ s : State, s.phase = .crypt → s.curI.toNat = s.curN.toNat →
    ∃ t : State, engineStep s = .next t ∧ EndedWith t .ok ∧ SameKey s t ∧ SameOperands s t ∧ SameMemory s t ∧
      SameHostSide s t ∧ t.progress = s.progress ∧ t.busLog = s.busLog

/-- R306: BUS_ERROR on a read of block CUR_I ends the command with code 5; PROGRESS, the key and all of memory stay. -/
def Obligations.CryptReadBusErrorWritesNothing : Prop :=
  ∀ (s : State) (x : Nat), s.phase = .crypt → s.curI.toNat ≠ s.curN.toNat → (s.nr = 10 ∨ s.nr = 14) →
    s.curSrc.toNat + 16 * s.curI.toNat ≤ x → x < s.curSrc.toNat + 16 * s.curI.toNat + 16 → memOk s.cfg .read x = false →
    ∃ t : State, engineStep s = .next t ∧ EndedWith t .busError ∧ SameKey s t ∧ SameOperands s t ∧ SameMemory s t ∧
      SameHostSide s t ∧ t.progress = s.progress

/-- R306, U10: BUS_ERROR on a write of block CUR_I ends the command with code 5; PROGRESS and the key stay, and no byte of
memory outside the 16 bytes of that destination block changes (of those 16 the statement says nothing). -/
def Obligations.CryptWriteBusErrorTouchesOneBlockOnly : Prop :=
  ∀ (s : State) (x : Nat), s.phase = .crypt → s.curI.toNat ≠ s.curN.toNat → (s.nr = 10 ∨ s.nr = 14) →
    Memory.wf s.mem = true → PlatformAnswers s.cfg .read (s.curSrc.toNat + 16 * s.curI.toNat) 16 →
    s.curDst.toNat + 16 * s.curI.toNat ≤ x → x < s.curDst.toNat + 16 * s.curI.toNat + 16 → memOk s.cfg .write x = false →
    ∃ t : State, engineStep s = .next t ∧ EndedWith t .busError ∧ SameKey s t ∧ SameOperands s t ∧
      SameMemoryOutside s t (s.curDst.toNat + 16 * s.curI.toNat) 16 ∧ SameHostSide s t ∧ t.progress = s.progress

/-- R243, R242, R246: an ENCRYPT_N of N blocks with a loaded key, buffers in range that do not overlap, a platform that
answers and no host access to the buffers completes after N + 1 steps with OK and PROGRESS = N; block i of the output is
ENC_BLOCK of block i of the input; every byte outside the output buffer, the key and the operands stay. -/
def Obligations.EncryptBatchEncryptsEveryBlock : Prop :=
  ∀ s : State, s.busy = false → NoRace s → Memory.wf s.mem = true → s.keyValid = true → (s.nr = 10 ∨ s.nr = 14) →
    s.src.toNat + 16 * s.len.toNat ≤ 2 ^ s.cfg.addrBits → s.dst.toNat + 16 * s.len.toNat ≤ 2 ^ s.cfg.addrBits →
    PlatformAnswers s.cfg .read s.src.toNat (16 * s.len.toNat) →
    PlatformAnswers s.cfg .write s.dst.toNat (16 * s.len.toNat) →
    (s.src.toNat + 16 * s.len.toNat ≤ s.dst.toNat ∨ s.dst.toNat + 16 * s.len.toNat ≤ s.src.toNat) →
    ∃ t u : State, exec .encryptN s = .next t ∧ engineSteps (s.len.toNat + 1) t = .next u ∧
      EndedWith u .ok ∧ u.progress = s.len ∧
      (∀ (i : Nat) (j : Fin 16), i < s.len.toNat →
        u.mem.read (s.dst.toNat + 16 * i + j.val) =
          lane (encBlock (ofBytes (s.mem.readBytes (s.src.toNat + 16 * i) 16)) s.ek s.nr.toNat) j) ∧
      SameMemoryOutside s u s.dst.toNat (16 * s.len.toNat) ∧ SameKey s u ∧ SameOperands s u ∧ SameHostSide s u

/-- R243, R242, R246: the same of DECRYPT_N, with DEC_BLOCK. -/
def Obligations.DecryptBatchDecryptsEveryBlock : Prop :=
  ∀ s : State, s.busy = false → NoRace s → Memory.wf s.mem = true → s.keyValid = true → (s.nr = 10 ∨ s.nr = 14) →
    s.src.toNat + 16 * s.len.toNat ≤ 2 ^ s.cfg.addrBits → s.dst.toNat + 16 * s.len.toNat ≤ 2 ^ s.cfg.addrBits →
    PlatformAnswers s.cfg .read s.src.toNat (16 * s.len.toNat) →
    PlatformAnswers s.cfg .write s.dst.toNat (16 * s.len.toNat) →
    (s.src.toNat + 16 * s.len.toNat ≤ s.dst.toNat ∨ s.dst.toNat + 16 * s.len.toNat ≤ s.src.toNat) →
    ∃ t u : State, exec .decryptN s = .next t ∧ engineSteps (s.len.toNat + 1) t = .next u ∧
      EndedWith u .ok ∧ u.progress = s.len ∧
      (∀ (i : Nat) (j : Fin 16), i < s.len.toNat →
        u.mem.read (s.dst.toNat + 16 * i + j.val) =
          lane (decBlock (ofBytes (s.mem.readBytes (s.src.toNat + 16 * i) 16)) s.dk s.nr.toNat) j) ∧
      SameMemoryOutside s u s.dst.toNat (16 * s.len.toNat) ∧ SameKey s u ∧ SameOperands s u ∧ SameHostSide s u

/-- R62, R245, R58: for any overlap of the buffers (SRC = DST among them) a batch leaves memory as its blocks done one after
the other leave it, each reading memory as the one before left it, with its byte accesses in exactly that order (the access log is the model's: log entry 9). -/
def Obligations.OverlappingBatchIsSequential : Prop :=
  ∀ s : State, s.busy = false → NoRace s → s.keyValid = true → (s.nr = 10 ∨ s.nr = 14) →
    s.src.toNat + 16 * s.len.toNat ≤ 2 ^ s.cfg.addrBits → s.dst.toNat + 16 * s.len.toNat ≤ 2 ^ s.cfg.addrBits →
    PlatformAnswers s.cfg .read s.src.toNat (16 * s.len.toNat) →
    PlatformAnswers s.cfg .write s.dst.toNat (16 * s.len.toNat) →
    (∃ t u : State, exec .encryptN s = .next t ∧ engineSteps (s.len.toNat + 1) t = .next u ∧ EndedWith u .ok ∧
      u.mem = ecbInOrder (fun b => encBlock b s.ek s.nr.toNat) s.mem s.src.toNat s.dst.toNat s.len.toNat ∧
      u.busLog = batchAccesses s.src.toNat s.dst.toNat s.len.toNat) ∧
    (∃ t u : State, exec .decryptN s = .next t ∧ engineSteps (s.len.toNat + 1) t = .next u ∧ EndedWith u .ok ∧
      u.mem = ecbInOrder (fun b => decBlock b s.dk s.nr.toNat) s.mem s.src.toNat s.dst.toNat s.len.toNat ∧
      u.busLog = batchAccesses s.src.toNat s.dst.toNat s.len.toNat)

/-- R244: with a loaded key and LEN = 0, ENCRYPT_N and DECRYPT_N are accepted whatever SRC and DST are, set PROGRESS to 0 and
complete with OK in one step, touching no memory. -/
def Obligations.EmptyBatchIsANoOp : Prop :=
  ∀ (s : State) (i : Instr), i = .encryptN ∨ i = .decryptN → s.busy = false → s.keyValid = true → s.len = 0 →
    ∃ t u : State, exec i s = .next t ∧ t.busy = true ∧ t.progress = 0 ∧ engineStep t = .next u ∧ EndedWith u .ok ∧
      u.progress = 0 ∧ u.mem = s.mem ∧ u.busLog = [] ∧ SameKey s u ∧ SameOperands s u ∧ SameHostSide s u

/-! ### The machine as a whole -/

/-- R45, R330: the values after reset, of every instance: the spec's values, except that the spec leaves the latches
unspecified and the second clause says nothing of them. The first clause, which instance, memory and pending transitions
`State.reset` has, is the model's choice: log entries 1 to 6, 8 and 14. -/
def Obligations.ResetLeavesTheEngineIdleAndEmpty : Prop :=
  State.reset = State.resetOf Config.default [] [] ∧
  ∀ (c : Config) (m : Memory) (l : List Event),
    let s := State.resetOf c m l
    s.phase = .idle ∧ s.busy = false ∧ s.keyValid = false ∧ s.errCode = .ok ∧ s.nr = 0 ∧ s.src = 0 ∧ s.dst = 0 ∧
      s.len = 0 ∧ s.progress = 0 ∧ (∀ j, slot s.ek j = zero ∧ slot s.dk j = zero) ∧ readReg s .status = 0 ∧
      readReg s .name = c.engineName ∧ readReg s .cmd = 0

/-- The state after reset satisfies the invariant, for every instance and every memory in canonical form; `State.reset` is one of
them by the model's choice (log entries 1 to 6, 8 and 14). -/
def Obligations.ResetSatisfiesTheInvariant : Prop :=
  State.reset.Inv ∧ ∀ (c : Config) (m : Memory) (l : List Event), Memory.wf m = true → (State.resetOf c m l).Inv

/-- Every transition, from every state that satisfies the invariant, keeps it: BUSY follows the phase (R33), ERRCODE reads 0
while BUSY = 1 (R337), the key state is that of one key or empty (R38), a running command's latches stay within what was
checked at acceptance, and memory stays canonical. -/
def Obligations.EveryStepKeepsTheInvariant : Prop :=
  ∀ s t : State, s.Inv → step s = .next t → t.Inv

/-- R32: the key state changes only by an engine step that completes a SET_KEY (KEY_VALID then 1) or a CLEAR (then 0), or by
a reset (then 0). -/
def Obligations.OnlySetKeyClearAndResetChangeTheKey : Prop :=
  ∀ s t : State, step s = .next t → ¬ SameKey s t →
    ((s.script = [] ∨ ∃ rest, s.script = .engine :: rest) ∧
      ((s.phase = .key ∧ t.keyValid = true ∧ t.errCode = .ok ∧ t.phase = .idle) ∨ (s.phase = .clr ∧ t.keyValid = false))) ∨
    ((∃ rest, s.script = .reset :: rest) ∧ t.keyValid = false)

/-- R246: an engine step writes no byte outside the output buffer of a running ENCRYPT_N or DECRYPT_N (no byte at all in the
other phases), and changes no parameter and none of NAME, CAPS, SRC, DST and LEN. -/
def Obligations.EngineWritesOnlyTheOutputBuffer : Prop :=
  ∀ s t : State, s.Inv → engineStep s = .next t →
    (s.phase ≠ .crypt → SameMemory s t) ∧
      (s.phase = .crypt → SameMemoryOutside s t s.curDst.toNat (16 * s.curN.toNat)) ∧
      (∀ r : HostReg, r = .name ∨ r = .caps ∨ r = .src ∨ r = .dst ∨ r = .len → readReg t r = readReg s r)

/-- The engine never stops of itself: from every state of the invariant an engine step answers a next state. A step is refused
exactly on a malformed host access (R22, R241): a register access that is not 8 bytes wide at the address of one of the eight
registers, or a memory access that touches the register window. It faults exactly on a memory access of at least one byte, off
the window, that names an address at or above 2^ADDR_BITS (the model's stops: log entries 18, 19 and 20). -/
def Obligations.OnlyHostAccessesStopTheMachine : Prop :=
  ∀ s : State, s.Inv →
    (∃ t, engineStep s = .next t) ∧
      (∀ r, step s = .refused r ↔ r = .malformedRegisterAccess ∧ ∃ e rest, s.script = e :: rest ∧
        ((∃ a w v, e = .wr a w v ∧ accessedReg s.cfg a w = none) ∨ (∃ a w, e = .rd a w ∧ accessedReg s.cfg a w = none) ∨
          (∃ a bs, e = .mw a bs ∧ touchesWindow s.cfg a bs.length = true) ∨
          ∃ a n, e = .mr a n ∧ touchesWindow s.cfg a n = true)) ∧
      (∀ f, step s = .fault f ↔ f = .hostAddressOutside ∧ ∃ e rest, s.script = e :: rest ∧
        ((∃ a bs, e = .mw a bs ∧ touchesWindow s.cfg a bs.length = false ∧ 0 < bs.length ∧
            2 ^ s.cfg.addrBits < a + bs.length) ∨
          ∃ a n, e = .mr a n ∧ touchesWindow s.cfg a n = false ∧ 0 < n ∧ 2 ^ s.cfg.addrBits < a + n)) ∧
      (∀ a w, accessedReg s.cfg a w = none ↔ ¬ (w = 8 ∧ ∃ r : HostReg, a = s.cfg.regBase + r.offset)) ∧
      ∀ a n, touchesWindow s.cfg a n = true ↔ ∃ x, a ≤ x ∧ x < a + n ∧ s.cfg.regBase ≤ x ∧ x < s.cfg.regBase + 64

/-- R340: from every state of the invariant in which a command runs, the engine is idle again after finitely many steps: at
most CUR_N + 1 (which is at most 2^64), and one for SET_KEY and CLEAR. -/
def Obligations.EveryCommandEnds : Prop :=
  ∀ s : State, s.Inv → s.phase ≠ .idle →
    ∃ (n : Nat) (t : State), engineSteps n s = .next t ∧ t.phase = .idle ∧ t.busy = false ∧ n ≤ s.curN.toNat + 1 ∧
      s.curN.toNat + 1 ≤ 2 ^ 64 ∧ (s.phase ≠ .crypt → n = 1)

/-- R340, R78: a host that polls (WAIT, with the model's schedule: log entry 15) gets an answer with BUSY = 0 after finitely many transitions, and goes on with its
next one. -/
def Obligations.PollingEnds : Prop :=
  ∀ (s : State) (rest : List Event), s.Inv → s.script = .wait :: rest →
    ∃ (k : Nat) (t : State), Sys2Proof.core.run k s = .next t ∧ t.script = rest ∧ t.busy = false ∧
      t.hostData = .reg (readReg t .status)

/-- R338, R339, R39: two states that differ only in the round keys, in the contents of memory and in bytes that came from it
take steps that differ only so: same registers and register reads, same phases and step counts, same completion codes, same
byte accesses in the same order. -/
def Obligations.StepsRevealNoKeyAndNoData : Prop :=
  ∀ s t : State, s.publicView = t.publicView → publicOutcome (step s) = publicOutcome (step t)

/-! ### Host register and memory accesses -/

/-- R239: a host write to SRC, DST or LEN sets the register, at any time, and changes nothing else: not the latches of a
running command. -/
def Obligations.OperandRegistersAreWritableAtAnyTime : Prop :=
  ∀ (s : State) (v : Word) (rest : List Event),
    (s.script = wrReg s.cfg.regBase .src v :: rest → step s = .next { s.advance rest with src := v }) ∧
      (s.script = wrReg s.cfg.regBase .dst v :: rest → step s = .next { s.advance rest with dst := v }) ∧
      (s.script = wrReg s.cfg.regBase .len v :: rest → step s = .next { s.advance rest with len := v })

/-- R22, R240: a host write to NAME, CAPS, STATUS or PROGRESS changes nothing. -/
def Obligations.ReadOnlyRegistersIgnoreWrites : Prop :=
  ∀ (s : State) (v : Word) (r : HostReg) (rest : List Event), r = .name ∨ r = .caps ∨ r = .status ∨ r = .progress →
    s.script = wrReg s.cfg.regBase r v :: rest → step s = .next (s.advance rest)

/-- R238: a host read of a register gives the host its value and changes nothing else. -/
def Obligations.RegisterReadsReturnTheCurrentValue : Prop :=
  (∀ (s : State) (r : HostReg) (rest : List Event), s.script = rdReg s.cfg.regBase r :: rest →
    step s = .next { s.advance rest with hostData := .reg (readReg s r) }) ∧
  ∀ s : State, readReg s .name = s.cfg.engineName ∧ readReg s .cmd = 0 ∧ readReg s .src = s.src ∧
    readReg s .caps =
      (match s.cfg.keyLengths with
        | .both => 0x310
        | .only16 => 0x110
        | .only32 => 0x210) ∧
    readReg s .dst = s.dst ∧ readReg s .len = s.len ∧ readReg s .progress = s.progress ∧
    readReg s .status = (if s.busy then 1 else 0) ||| ((if s.keyValid then 1 else 0) <<< 1) |||
      (s.errCode.code.setWidth 64 <<< 8) ||| (s.nr.setWidth 64 <<< 16)

/-- R26: the fields of STATUS; the reserved ones are 0. -/
def Obligations.StatusFieldsStandWhereTheTablePutsThem : Prop :=
  ∀ s : State, let v := readReg s .status
    v.getLsbD 0 = s.busy ∧ v.getLsbD 1 = s.keyValid ∧ v.extractLsb' 2 6 = 0 ∧ v.extractLsb' 8 4 = s.errCode.code ∧
      v.extractLsb' 12 4 = 0 ∧ v.extractLsb' 16 8 = s.nr ∧ v.extractLsb' 24 40 = 0

/-- R24: the fields of CAPS, and its value with the default parameter. -/
def Obligations.CapsTellsTheBlockSizeAndTheKeyLengths : Prop :=
  (∀ s : State, let v := readReg s .caps
    v.extractLsb' 0 8 = 0x10 ∧ (v.getLsbD 8 = true ↔ s.cfg.keyLengths ≠ .only32) ∧
      (v.getLsbD 9 = true ↔ s.cfg.keyLengths ≠ .only16) ∧ v.extractLsb' 10 54 = 0) ∧
  ∀ s : State, s.cfg.keyLengths = .both → readReg s .caps = 0x0000000000000310

/-- R241 (of the host's memory accesses: log entry 18): a host access to the register window that is not an aligned 64-bit access at one of the eight offsets is refused:
a register access of another width or offset, and a memory access that touches the window. -/
def Obligations.MalformedRegisterAccessesAreRefused : Prop :=
  (∀ (s : State) (a w : Nat) (v : Word) (rest : List Event), s.cfg.regBase ≤ a → a < s.cfg.regBase + 64 →
    w ≠ 8 ∨ (a - s.cfg.regBase) % 8 ≠ 0 →
    (s.script = .wr a w v :: rest → step s = .refused .malformedRegisterAccess) ∧
      (s.script = .rd a w :: rest → step s = .refused .malformedRegisterAccess)) ∧
  ∀ (s : State) (a : Nat) (bs : List Byte) (n x : Nat) (rest : List Event), s.cfg.regBase ≤ x → x < s.cfg.regBase + 64 →
    a ≤ x →
    (x < a + bs.length → s.script = .mw a bs :: rest → step s = .refused .malformedRegisterAccess) ∧
      (x < a + n → s.script = .mr a n :: rest → step s = .refused .malformedRegisterAccess)

/-- R53, R64, R65, U8: bytes the host writes to memory off the register window and off the buffers of a running command are what
memory then holds, every other byte and the rest of the state staying, and a host read of them returns them: at any address while
the engine is idle, and while BUSY = 1 at every byte that the command neither reads nor writes. The first clause says which bytes
a command reads and writes. That the platform's bus holes do not stop a host access is the model's choice (log entry 31). -/
def Obligations.HostMemoryWritesAreReadBack : Prop :=
  (∀ (s : State) (x : Nat),
    (s.readsByte x = true ↔
      (s.phase = .key ∧ s.curSrc.toNat ≤ x ∧ x < s.curSrc.toNat + s.curN.toNat) ∨
        (s.phase = .crypt ∧ s.curSrc.toNat ≤ x ∧ x < s.curSrc.toNat + 16 * s.curN.toNat)) ∧
      (s.writesByte x = true ↔ s.phase = .crypt ∧ s.curDst.toNat ≤ x ∧ x < s.curDst.toNat + 16 * s.curN.toNat)) ∧
  ∀ (s : State) (a : Nat) (bs : List Byte) (rest : List Event),
    (∀ x, a ≤ x → x < a + bs.length → s.readsByte x = false ∧ s.writesByte x = false) → Memory.wf s.mem = true →
    a + bs.length ≤ 2 ^ s.cfg.addrBits → (a + bs.length ≤ s.cfg.regBase ∨ s.cfg.regBase + 64 ≤ a) →
    s.script = .mw a bs :: .mr a bs.length :: rest →
    ∃ t u : State, step s = .next t ∧ step t = .next u ∧ u.hostData = .bytes bs ∧ t.mem.readBytes a bs.length = bs ∧
      SameMemoryOutside s t a bs.length ∧ t = { s.advance (.mr a bs.length :: rest) with mem := t.mem } ∧ u.mem = t.mem

/-- R65, R59, U8, by the model's record of races and its reading of the rule (log entries 10, 12, 27 and 31), in five clauses.
A host write to a byte that the running command reads or writes leaves the new value there (or, where the engine has already
written the byte, either side's value), changes no other byte and no register, and from then on the engine reads the byte as it
stands or as it was before this or an earlier host write.
An engine read gives the byte in memory or a value that the host overwrote.
A KEY step loads the schedule of the bytes so read.
A CRYPT step stores the transform of the bytes so read, and at a byte that the host too has written either side's value stands.
A host read gives each byte as memory holds it, or, at a byte that the running command writes, as it was before an engine write
or as the block about to be written would make it; nothing else changes. -/
def Obligations.RacingHostWriteIsReadOldOrNew : Prop :=
  (∀ (s : State) (a : Nat) (v : Byte) (rest : List Event), s.readsByte a = true ∨ s.writesByte a = true →
    Memory.wf s.mem = true → a < 2 ^ s.cfg.addrBits → (a < s.cfg.regBase ∨ s.cfg.regBase + 64 ≤ a) →
    s.script = .mw a [v] :: rest →
    ∃ t : State, step s = .next t ∧
      (t.mem.read a = v ∨ (recorded s.engWrote a ≠ [] ∧ t.mem.read a = s.mem.read a)) ∧
      (∀ u : State, u.mem = t.mem → u.hostWrote = t.hostWrote →
        u.engineByte a = t.mem.read a ∨ u.engineByte a = s.mem.read a ∨ u.engineByte a ∈ recorded s.hostWrote a) ∧
      SameMemoryOutside s t a 1 ∧ recorded t.hostWrote a = s.mem.read a :: recorded s.hostWrote a ∧
      (∀ b, b ≠ a → recorded t.hostWrote b = recorded s.hostWrote b) ∧
      t = { s.advance rest with mem := t.mem, hostWrote := t.hostWrote }) ∧
  (∀ (s : State) (a : Nat), s.engineByte a = s.mem.read a ∨ s.engineByte a ∈ recorded s.hostWrote a) ∧
  (∀ s : State, s.phase = .key → (s.curN = 16 ∨ s.curN = 32) →
    PlatformAnswers s.cfg .read s.curSrc.toNat s.curN.toNat →
    ∃ t : State, engineStep s = .next t ∧
      HoldsKey t ((List.range' s.curSrc.toNat s.curN.toNat).map s.engineByte) ∧ t.keyValid = true ∧ EndedWith t .ok ∧
      SameMemory s t) ∧
  (∀ s : State, s.phase = .crypt → s.curI.toNat < s.curN.toNat → (s.nr = 10 ∨ s.nr = 14) → Memory.wf s.mem = true →
    PlatformAnswers s.cfg .read (s.curSrc.toNat + 16 * s.curI.toNat) 16 →
    PlatformAnswers s.cfg .write (s.curDst.toNat + 16 * s.curI.toNat) 16 →
    ∃ t : State, engineStep s = .next t ∧
      (∀ (j : Fin 16) (x : Nat), x = s.curDst.toNat + 16 * s.curI.toNat + j.val →
        (t.mem.read x =
            lane (s.blockFrom ((List.range' (s.curSrc.toNat + 16 * s.curI.toNat) 16).map s.engineByte)) j ∨
          (recorded s.hostWrote x ≠ [] ∧ t.mem.read x = s.mem.read x)) ∧
        recorded t.engWrote x = s.mem.read x :: recorded s.engWrote x) ∧
      SameMemoryOutside s t (s.curDst.toNat + 16 * s.curI.toNat) 16 ∧ t.hostWrote = s.hostWrote) ∧
  ∀ (s : State) (a n : Nat) (rest : List Event), a + n ≤ 2 ^ s.cfg.addrBits →
    (a + n ≤ s.cfg.regBase ∨ s.cfg.regBase + 64 ≤ a) → s.script = .mr a n :: rest →
    ∃ (t : State) (bs : List Byte), step s = .next t ∧ t = { s.advance rest with hostData := .bytes bs } ∧ bs.length = n ∧
      ∀ k, k < n → bs.getD k 0 = s.mem.read (a + k) ∨
        (s.writesByte (a + k) = true ∧
          (bs.getD k 0 ∈ recorded s.engWrote (a + k) ∨
            (s.curI.toNat ≠ s.curN.toNat ∧ ∃ j : Fin 16, a + k = s.curDst.toNat + 16 * s.curI.toNat + j.val ∧
              bs.getD k 0 =
                lane (s.blockFrom
                  ((List.range' (s.curSrc.toNat + 16 * s.curI.toNat) 16).map (s.advance rest).engineByte)) j)))

/-- R330, R331, U9 (log entries 13 and 22): a reset at any time gives every engine register its reset value, the keys among them, and keeps every
byte of memory but the 16 destination bytes of the block that a running ENCRYPT_N or DECRYPT_N has not finished. -/
def Obligations.ResetAbandonsTheRunningCommand : Prop :=
  ∀ (s : State) (rest : List Event), Memory.wf s.mem = true → s.script = .reset :: rest →
    ∃ t : State, step s = .next t ∧ t.phase = .idle ∧ t.busy = false ∧ t.keyValid = false ∧ t.errCode = .ok ∧ t.nr = 0 ∧
      t.src = 0 ∧ t.dst = 0 ∧ t.len = 0 ∧ t.progress = 0 ∧ (∀ j, slot t.ek j = zero ∧ slot t.dk j = zero) ∧ t.cfg = s.cfg ∧
      t.script = rest ∧ SameMemoryOutside s t (s.curDst.toNat + 16 * s.curI.toNat) 16 ∧
      ((s.phase ≠ .crypt ∨ s.curI.toNat = s.curN.toNat) → SameMemory s t)

/-! ### The datapath -/

/-- R131, R132: LOOKUP16 and PERMUTE lane by lane, and that a lookup with an index in 0..15 in every lane is PERMUTE. -/
def Obligations.LookupAndPermuteLaneByLane : Prop :=
  (∀ (t x : Vec) (j : Fin 16), lane (lookup16 t x) j =
    if (lane x j).getLsbD 7 = true then 0x00 else lane t ⟨(lane x j).toNat % 16, Nat.mod_lt _ (by decide)⟩) ∧
  (∀ (v p : Vec) (j k : Fin 16), (lane p j).toNat = k.val → lane (permute v p) j = lane v k) ∧
  ∀ v p : Vec, (∀ j, (lane p j).toNat < 16) → lookup16 v p = permute v p

/-- R138: IPT, DIPT, OUT and DESKEW are GF(2)-linear and bijective on each byte, the first three pairs of the decryption-key
chain are linear, and the fourth is affine with constant 0xE8. -/
def Obligations.BasisChangesAreLinear : Prop :=
  (∀ p ∈ [(Rom.IPT_LO, Rom.IPT_HI), (Rom.DIPT_LO, Rom.DIPT_HI), (Rom.OUT_LO, Rom.OUT_HI), (Rom.DESKEW_LO, Rom.DESKEW_HI)],
    (∀ v w : Vec, affine (v ^^^ w) p.1 p.2 = affine v p.1 p.2 ^^^ affine w p.1 p.2) ∧
      Function.Bijective fun x : Byte => lane (affine (bcast x) p.1 p.2) 0) ∧
  (∀ p ∈ [(Rom.DSK0, Rom.DSK1), (Rom.DSK2, Rom.DSK3), (Rom.DSK4, Rom.DSK5)],
    ∀ v w : Vec, affine (v ^^^ w) p.1 p.2 = affine v p.1 p.2 ^^^ affine w p.1 p.2) ∧
  ∀ v w : Vec, affine (v ^^^ w) Rom.DSK6 Rom.DSK7 =
    affine v Rom.DSK6 Rom.DSK7 ^^^ affine w Rom.DSK6 Rom.DSK7 ^^^ bcast 0xE8

/-- R112, R113, R119: OUT inverts IPT, DESKEW carries the encryption basis to the decryption basis, and IPT and DIPT take
0x63 to 0x5B and 0xE8. -/
def Obligations.BasisChangesInvertAndCarry : Prop :=
  (∀ v : Vec, affine (ipt v) Rom.OUT_LO Rom.OUT_HI = v) ∧
    (∀ v : Vec, affine (ipt v) Rom.DESKEW_LO Rom.DESKEW_HI = dipt v) ∧
    ipt (bcast 0x63) = Rom.S63 ∧ Rom.S63 = bcast 0x5B ∧ dipt (bcast 0x63) = bcast 0xE8

/-- R114: the decryption-key chain multiplies by 0x09, 0x0D, 0x0B and 0x0E, carried into the decryption basis, the last with
0xE8 added. -/
def Obligations.DecryptionKeyChainMultiplies : Prop :=
  ∀ v : Vec,
    let m1 := affine (ipt v) Rom.DSK0 Rom.DSK1
    let m2 := affine m1 Rom.DSK2 Rom.DSK3
    let m3 := affine m2 Rom.DSK4 Rom.DSK5
    let m4 := affine m3 Rom.DSK6 Rom.DSK7
    m1 = dipt (ofLanes fun j => Fips.mul 0x09 (lane v j)) ∧ m2 = dipt (ofLanes fun j => Fips.mul 0x0D (lane v j)) ∧
      m3 = dipt (ofLanes fun j => Fips.mul 0x0B (lane v j)) ∧
      m4 = dipt (ofLanes fun j => Fips.mul 0x0E (lane v j)) ^^^ bcast 0xE8

/-- R140: with the FIPS-197 S-box and its inverse, what each output pair gives after the substitution core, lane by lane. -/
def Obligations.SubstitutionCoreIsTheAesSbox : Prop :=
  ∀ v : Vec,
    let e := subcore (ipt v)
    let s63 := ofLanes fun j => Fips.sbox (lane v j) ^^^ 0x63
    let d := subcore (dipt v)
    let inv := fun m => ofLanes fun j => Fips.mul m (Fips.invSbox (lane v j ^^^ 0x63))
    outPair Rom.SBOU Rom.SBOT e = s63 ∧ outPair Rom.SB1U Rom.SB1T e = ipt s63 ∧
      outPair Rom.SB2U Rom.SB2T e = ipt (ofLanes fun j => Fips.mul 0x02 (Fips.sbox (lane v j) ^^^ 0x63)) ∧
      outPair Rom.DSBOU Rom.DSBOT d = (ofLanes fun j => Fips.invSbox (lane v j ^^^ 0x63)) ∧
      outPair Rom.SB9U Rom.SB9T d = dipt (inv 0x09) ∧ outPair Rom.SBDU Rom.SBDT d = dipt (inv 0x0D) ∧
      outPair Rom.SBBU Rom.SBBT d = dipt (inv 0x0B) ∧ outPair Rom.SBEU Rom.SBET d = dipt (inv 0x0E)

/-- R115, R116, R117: the closed forms of the three permutation families, and SR[k] as ShiftRows applied k times. -/
def Obligations.PermutationFamiliesHaveTheirClosedForms : Prop :=
  (∀ k c i : Fin 4,
    (lane (Rom.MCF k) (laneIndex (4 * c + i))).toNat = 4 * ((c.val + k) % 4) + (i.val + 1) % 4 ∧
      (lane (Rom.MCB k) (laneIndex (4 * c + i))).toNat = 4 * ((c.val + 4 - k) % 4) + (i.val + 3) % 4 ∧
      (lane (Rom.SR k) (laneIndex (4 * c + i))).toNat = 4 * ((c.val + k.val * i) % 4) + i.val) ∧
  ∀ (k : Fin 4) (v : Vec), permute v (Rom.SR k) = Fips.shiftRows^[k.val] v

/-- R163: word w of SMEAR(V) is the XOR of words 0..w of V and 0x5B in every byte. -/
def Obligations.SmearIsTheRunningXorOfWords : Prop :=
  ∀ (v : Vec) (w i : Fin 4),
    lane (smear v) (laneIndex (4 * w + i)) =
      ((List.range (w.val + 1)).map fun k => lane v (laneIndex (4 * k + i))).foldl (· ^^^ ·) 0x5B

/-- R207, R208: for every Nr ≥ 1 the selector WHICH_SR equals 3 − ((Nr − 1) mod 4), which is (−Nr) mod 4; for 10 and 14 it is
2, as Nr mod 4 is. -/
def Obligations.RowShiftSelectorClosedForm : Prop :=
  (∀ nr : Nat, 1 ≤ nr → whichSr nr = 3 - (nr - 1) % 4 ∧ ((whichSr nr : Int) = (-(nr : Int)) % 4)) ∧
    whichSr 10 = 2 ∧ whichSr 14 = 2 ∧ 10 % 4 = 2 ∧ 14 % 4 = 2

/-- R206: in decryption round r the rotating table MC holds MCF[(−r) mod 4], for any keys and block. -/
def Obligations.RotatingTableHoldsMcf : Prop :=
  ∀ (b : Vec) (dk : RoundKeys) (n : Nat), (decMiddle b dk n).2 = Rom.MCF ((-((n : Int) + 1)) % 4).toNat

/-! ### The FIPS-197 contract -/

/-- R271, R272: S by its bit equation agrees with its printed table, and InvS inverts it. -/
def Obligations.SboxEquationAgreesWithItsTable : Prop :=
  ∀ x : Byte, Fips.sbox x = Fips.sboxTable.getD x.toNat 0 ∧ Fips.invSbox (Fips.sbox x) = x ∧ Fips.sbox (Fips.invSbox x) = x

/-- R175: the carrier's lane 15 before the n-th consumption is IPT of the n-th FIPS-197 round constant, n = 1..10. -/
def Obligations.CarrierDeliversTheRoundConstants : Prop :=
  ∀ n : Fin 10,
    lane ((fun rc => rotUp rc 1)^[n.val] Rom.RCON_INIT) 15 = lane (ipt (bcast (Fips.rcon (n.val + 1)))) 0 ∧
      lane ((fun rc => rotUp rc 1)^[n.val] Rom.RCON_INIT) 15 =
        [0x70, 0x2A, 0x98, 0x08, 0x4D, 0x7C, 0x7D, 0x81, 0x1F, 0x83].getD n.val 0

/-- R172: the key material of round r is IPT of the FIPS-197 round key w_r: in AES-128, KA after the r-th round, and in AES-256,
KA after the n-th even step (round 2n) and KB after the n-th odd step (round 2n + 1; n = 0 is the start). -/
def Obligations.KeyMaterialIsTheRoundKeyInTheInternalBasis : Prop :=
  (∀ (key : List Byte) (r : Nat), key.length = 16 → r ≤ 10 →
    ((List.range' 1 r).foldl sched128Round (sched128Init (ofBytes key))).ka = ipt (Fips.roundKey key r)) ∧
  ∀ (key : List Byte) (n : Nat), key.length = 32 → n ≤ 7 →
    let w :=
      ([2, 4, 6, 8, 10, 12, 14].take n).foldl sched256Round (sched256Init (ofBytes (key.take 16)) (ofBytes (key.drop 16)))
    w.ka = ipt (Fips.roundKey key (2 * n)) ∧ (n ≤ 6 → w.kb = ipt (Fips.roundKey key (2 * n + 1)))

/-- R173: the closed forms of the stored keys, for every key of 16 or 32 bytes, and how the outermost two are related (OUT
inverts IPT). -/
def Obligations.StoredKeysHaveTheirClosedForms : Prop :=
  ∀ key : List Byte, AesKey key →
    let k := keySched key
    k.nr = Fips.nr key ∧ slot k.ek 0 = ipt (Fips.roundKey key 0) ∧
      (∀ r, 1 ≤ r → r < k.nr → slot k.ek r = mangleEnc (ipt (Fips.roundKey key r)) (negMod4 r) ∧
        slot k.dk (k.nr - r) = mangleDec (ipt (Fips.roundKey key r)) ((k.nr - r) % 4)) ∧
      slot k.ek k.nr = permute (Fips.roundKey key k.nr) (Rom.SR 2) ^^^ bcast 0x63 ∧
      slot k.dk 0 = dipt (Fips.roundKey key k.nr) ^^^ bcast 0xE8 ∧ slot k.dk k.nr = permute (Fips.roundKey key 0) (Rom.SR 2) ∧
      slot k.dk k.nr = permute (affine (slot k.ek 0) Rom.OUT_LO Rom.OUT_HI) (Rom.SR 2)

/-- R202: the Block State after step 1 and after each encryption middle round is the FIPS-197 state in the internal basis,
row-shifted, and the output is the FIPS-197 state after the last round. -/
def Obligations.EncryptionStateFollowsFips : Prop :=
  ∀ (key : List Byte) (p : Vec), AesKey key →
    (∀ r : Nat, r + 1 ≤ (keySched key).nr →
      encMiddle p (keySched key).ek r = permute (ipt (Fips.stateAfter p key r)) (Rom.SR (negMod4 r))) ∧
    encBlock p (keySched key).ek (keySched key).nr =
      Fips.shiftRows (Fips.subBytes (Fips.stateAfter p key ((keySched key).nr - 1))) ^^^ Fips.roundKey key (keySched key).nr

/-- R209: the Block State before decryption round r + 1, for the ciphertext of any block, and the output, which is
s_0 ^ w_0, the input of the encryption. -/
def Obligations.DecryptionStateFollowsFips : Prop :=
  ∀ (key : List Byte) (p : Vec), AesKey key →
    (∀ r : Nat, r + 1 ≤ (keySched key).nr →
      (decMiddle (Fips.cipher p key) (keySched key).dk r).1 =
        permute (dipt (Fips.subBytes (Fips.stateAfter p key ((keySched key).nr - 1 - r)) ^^^ bcast 0x63))
          (Rom.SR ((r + 1) % 4))) ∧
    decBlock (Fips.cipher p key) (keySched key).dk (keySched key).nr = Fips.stateAfter p key 0 ^^^ Fips.roundKey key 0 ∧
    Fips.stateAfter p key 0 ^^^ Fips.roundKey key 0 = p

/-- R278: for every key of 16 or 32 bytes and every block, ENC_BLOCK is the FIPS-197 Cipher and DEC_BLOCK is InvCipher. -/
def Obligations.BlockTransformsAreFips197 : Prop :=
  ∀ (key : List Byte) (p : Vec), AesKey key →
    encBlock p (keySched key).ek (keySched key).nr = Fips.cipher p key ∧
      decBlock p (keySched key).dk (keySched key).nr = Fips.invCipher p key

/-- R210: for every key of 16 or 32 bytes, decryption undoes encryption. -/
def Obligations.DecryptionUndoesEncryption : Prop :=
  ∀ (key : List Byte) (p : Vec), AesKey key →
    decBlock (encBlock p (keySched key).ek (keySched key).nr) (keySched key).dk (keySched key).nr = p

/-- R276: InvCipher inverts Cipher, for every key of 16 or 32 bytes and every block; and, as the model extends the reference to
other key lengths (log entry 28), for every key. -/
def Obligations.InverseCipherInvertsCipher : Prop :=
  ∀ (key : List Byte) (p : Vec), Fips.invCipher (Fips.cipher p key) key = p

/-- R38, R270: whatever state of the invariant holds a key, there is one AES key under which its engine encrypts and decrypts
every block as FIPS-197 does. -/
def Obligations.LoadedEngineIsAes : Prop :=
  ∀ s : State, s.Inv → s.keyValid = true →
    ∃ key, AesKey key ∧ HoldsKey s key ∧ ∀ b : Vec,
      encBlock b s.ek s.nr.toNat = Fips.cipher b key ∧ decBlock b s.dk s.nr.toNat = Fips.invCipher b key
end

