-- ==== Sys2Proof/Laws/Lanes.lean ====
section
/-! SUPPORT. The small lemmas of vectors and lanes: a vector is its lanes, and what each datapath operation gives lane by
lane. Proofs about the datapath use these and unfold no vector. -/

namespace Sys2Proof.Machine

theorem getLsbD_lane (v : Vec) (j : Fin 16) (i : Nat) : (lane v j).getLsbD i = (decide (i < 8) && v.getLsbD (8 * j.val + i)) := by
  simp [lane, BitVec.getLsbD_extractLsb']

/-- Bit `i` of lane `j` of a vector that holds one byte, in lane `k`. -/
theorem getLsbD_putLane (b : Byte) (k : Nat) (j : Fin 16) (i : Nat) (hi : i < 8) :
    (putLane b k).getLsbD (8 * j.val + i) = (decide (k = j.val) && b.getLsbD i) := by
  have hlt : 8 * j.val + i < 128 := by omega
  have far : ∀ n, 8 ≤ n → b.getLsbD n = false := fun n hn => BitVec.getLsbD_of_ge b n hn
  rw [putLane, BitVec.getLsbD_shiftLeft, BitVec.getLsbD_setWidth]
  rcases Nat.lt_trichotomy k j.val with h | h | h
  · rw [far (8 * j.val + i - 8 * k) (by omega)]
    simp [Nat.ne_of_lt h]
  · subst h
    simp [hlt]
    omega
  · have : 8 * j.val + i < 8 * k := by omega
    simp [this, Nat.ne_of_gt h]

@[simp] theorem lane_xor (a b : Vec) (j : Fin 16) : lane (a ^^^ b) j = lane a j ^^^ lane b j := by
  apply BitVec.eq_of_getLsbD_eq
  intro i hi
  simp only [getLsbD_lane, BitVec.getLsbD_xor, hi, decide_true, Bool.true_and]

/-- Two vectors with the same lanes are the same vector. -/
theorem vec_ext {a b : Vec} (h : ∀ j, lane a j = lane b j) : a = b := by
  apply BitVec.eq_of_getLsbD_eq
  intro i hi
  have h8 : i % 8 < 8 := Nat.mod_lt _ (by decide)
  have e : 8 * (i / 8) + i % 8 = i := by omega
  have := congrArg (fun b : Byte => b.getLsbD (i % 8)) (h ⟨i / 8, by omega⟩)
  simpa only [getLsbD_lane, h8, e, decide_true, Bool.true_and] using this

/-- Of sixteen bits, each kept only where its number is `j`, the disjunction is bit `j`. -/
theorem select_lane (g : Fin 16 → Bool) (j : Fin 16) :
    (decide (0 = j.val) && g 0 || decide (1 = j.val) && g 1 || decide (2 = j.val) && g 2 || decide (3 = j.val) && g 3 ||
      decide (4 = j.val) && g 4 || decide (5 = j.val) && g 5 || decide (6 = j.val) && g 6 || decide (7 = j.val) && g 7 ||
      decide (8 = j.val) && g 8 || decide (9 = j.val) && g 9 || decide (10 = j.val) && g 10 || decide (11 = j.val) && g 11 ||
      decide (12 = j.val) && g 12 || decide (13 = j.val) && g 13 || decide (14 = j.val) && g 14 || decide (15 = j.val) && g 15)
      = g j := by
  fin_cases j <;> simp

theorem getLsbD_lane_ofLanes (f : Fin 16 → Byte) (j : Fin 16) (i : Nat) (hi : i < 8) :
    (lane (ofLanes f) j).getLsbD i = (f j).getLsbD i := by
  rw [getLsbD_lane]
  unfold ofLanes
  simp only [BitVec.getLsbD_or, hi, decide_true, Bool.true_and, getLsbD_putLane _ _ j i hi]
  rw [← select_lane (fun k => (f k).getLsbD i) j]

@[simp] theorem lane_ofLanes (f : Fin 16 → Byte) (j : Fin 16) : lane (ofLanes f) j = f j :=
  BitVec.eq_of_getLsbD_eq fun i hi => getLsbD_lane_ofLanes f j i hi

@[simp] theorem laneIndex_val (j : Fin 16) : laneIndex j.val = j := Fin.ext (Nat.mod_eq_of_lt j.isLt)

@[simp] theorem lane_bcast (c : Byte) (j : Fin 16) : lane (bcast c) j = c := by
  rw [bcast, lane_ofLanes]

@[simp] theorem lane_zero (j : Fin 16) : lane zero j = 0 := lane_bcast 0x00 j

@[simp] theorem lane_ofBytes (bs : List Byte) (j : Fin 16) : lane (ofBytes bs) j = bs.getD j.val 0 := by
  rw [ofBytes, lane_ofLanes]

@[simp] theorem lane_lo (v : Vec) (j : Fin 16) : lane (lo v) j = loNibble (lane v j) := by
  rw [lo, lane_ofLanes]

@[simp] theorem lane_hi (v : Vec) (j : Fin 16) : lane (hi v) j = hiNibble (lane v j) := by
  rw [hi, lane_ofLanes]

@[simp] theorem lane_shlLanes (v : Vec) (k : Nat) (i : Fin 16) :
    lane (shlLanes v k) i = if k ≤ i.val then lane v (laneIndex (i.val - k)) else 0x00 := by
  rw [shlLanes, lane_ofLanes]

@[simp] theorem lane_rotUp (v : Vec) (k : Nat) (i : Fin 16) :
    lane (rotUp v k) i = lane v (laneIndex (i.val + 16 - k % 16)) := by
  rw [rotUp, lane_ofLanes]

@[simp] theorem lane_rotDown (v : Vec) (k : Nat) (i : Fin 16) : lane (rotDown v k) i = lane v (laneIndex (i.val + k)) := by
  rw [rotDown, lane_ofLanes]

@[simp] theorem lane_lane0 (b : Byte) (i : Fin 16) : lane (lane0 b) i = if i.val = 0 then b else 0x00 := by
  rw [lane0, lane_ofLanes]

@[simp] theorem lane_bcastW3 (v : Vec) (j : Fin 16) : lane (bcastW3 v) j = lane v (laneIndex (12 + j.val % 4)) := by
  rw [bcastW3, lane_ofLanes]

@[simp] theorem lane_lookup16 (t x : Vec) (j : Fin 16) : lane (lookup16 t x) j = lookupLane t (lane x j) := by
  rw [lookup16, lane_ofLanes]

@[simp] theorem lane_permute (v p : Vec) (j : Fin 16) : lane (permute v p) j = lane v (laneIndex (lane p j).toNat) := by
  rw [permute, lane_ofLanes]

@[simp] theorem lane_affine (v tlo thi : Vec) (j : Fin 16) :
    lane (affine v tlo thi) j = lookupLane tlo (loNibble (lane v j)) ^^^ lookupLane thi (hiNibble (lane v j)) := by
  simp [affine]

@[simp] theorem lane_outPair (xu xt : Vec) (ij : Vec × Vec) (j : Fin 16) :
    lane (outPair xu xt ij) j = lookupLane xu (lane ij.1 j) ^^^ lookupLane xt (lane ij.2 j) := by
  simp [outPair]

/-- A lane of the substitution core depends on that lane of its input only (R140). -/
theorem lane_subcore (b : Vec) (j : Fin 16) :
    lane (subcore b).1 j = lane (subcore (bcast (lane b j))).1 j ∧
      lane (subcore b).2 j = lane (subcore (bcast (lane b j))).2 j := by
  simp [subcore]

@[simp] theorem toBytes_length (v : Vec) : (toBytes v).length = 16 := by simp [toBytes]

theorem toBytes_getD (v : Vec) (j : Fin 16) : (toBytes v).getD j.val 0 = lane v j := by
  simp [toBytes, List.getD_eq_getElem?_getD]

/-- A vector stored and loaded again is the vector (R11). -/
@[simp] theorem ofBytes_toBytes (v : Vec) : ofBytes (toBytes v) = v := by
  apply vec_ext
  intro j
  rw [lane_ofBytes, toBytes_getD]

end Sys2Proof.Machine
end

