-- ==== Sys2Proof/Laws/Memory.lean ====
section
/-! SUPPORT. The byte memory: a read after a write, and every operation keeps the canonical form. -/

namespace Sys2Proof.Machine

theorem Memory.read_nil (a : Nat) : Memory.read [] a = Memory.unlisted := rfl

/-- An address below every listed one reads as unlisted. -/
theorem Memory.read_of_lt {m : Memory} {lo a : Nat} (h : Memory.wfFrom lo m = true) (ha : a < lo) :
    Memory.read m a = Memory.unlisted := by
  induction m generalizing lo with
  | nil => rfl
  | cons c m ih =>
    obtain ⟨b, w⟩ := c
    simp only [Memory.wfFrom, Bool.and_eq_true, decide_eq_true_eq] at h
    rw [Memory.read, if_neg (by omega)]
    exact ih h.2 (by omega)

theorem Memory.wfFrom_mono {m : Memory} {lo lo' : Nat} (h : Memory.wfFrom lo m = true) (hl : lo' ≤ lo) :
    Memory.wfFrom lo' m = true := by
  cases m with
  | nil => rfl
  | cons c m =>
    obtain ⟨b, w⟩ := c
    simp only [Memory.wfFrom, Bool.and_eq_true, decide_eq_true_eq] at h ⊢
    exact ⟨⟨by omega, h.1.2⟩, h.2⟩

/-- A write keeps the canonical form. -/
theorem Memory.write_wfFrom {m : Memory} {lo : Nat} (h : Memory.wfFrom lo m = true) (a : Nat) (v : Byte) (ha : lo ≤ a) :
    Memory.wfFrom lo (Memory.write m a v) = true := by
  induction m generalizing lo with
  | nil => by_cases hv : v = Memory.unlisted <;> simp [Memory.write, Memory.wfFrom, hv, ha]
  | cons c m ih =>
    obtain ⟨b, w⟩ := c
    simp only [Memory.wfFrom, Bool.and_eq_true, decide_eq_true_eq] at h
    obtain ⟨⟨hb, hw⟩, hm⟩ := h
    rw [Memory.write]
    split
    · split <;> simp [Memory.wfFrom, *]
    · split
      · split
        · exact Memory.wfFrom_mono hm (by omega)
        · subst b
          simp [Memory.wfFrom, *]
      · simp only [Memory.wfFrom, Bool.and_eq_true, decide_eq_true_eq]
        exact ⟨⟨hb, hw⟩, ih hm (by omega)⟩

theorem Memory.write_wf {m : Memory} (h : Memory.wf m = true) (a : Nat) (v : Byte) : Memory.wf (Memory.write m a v) = true :=
  Memory.write_wfFrom h a v (Nat.zero_le a)

theorem Memory.writeBytes_wf {m : Memory} (h : Memory.wf m = true) (a : Nat) (vs : List Byte) :
    Memory.wf (Memory.writeBytes m a vs) = true := by
  induction vs generalizing m a with
  | nil => exact h
  | cons v vs ih => exact ih (Memory.write_wf h a v) (a + 1)

theorem Memory.read_write_from {m : Memory} {lo : Nat} (h : Memory.wfFrom lo m = true) (a : Nat) (v : Byte) (x : Nat) :
    Memory.read (Memory.write m a v) x = if x = a then v else Memory.read m x := by
  induction m generalizing lo with
  | nil => by_cases hv : v = Memory.unlisted <;> by_cases hx : x = a <;> simp [Memory.write, Memory.read, hv, hx]
  | cons c m ih =>
    obtain ⟨b, w⟩ := c
    simp only [Memory.wfFrom, Bool.and_eq_true, decide_eq_true_eq] at h
    obtain ⟨⟨hb, hw⟩, hm⟩ := h
    rw [Memory.write]
    split
    · rename_i hab
      split
      · rename_i hv
        split
        · rename_i hx
          rw [hx, hv, Memory.read, if_neg (by omega)]
          exact Memory.read_of_lt hm (by omega)
        · rfl
      · rw [Memory.read]
    · split
      · rename_i hab
        subst b
        split
        · rename_i hv
          split
          · rename_i hx
            rw [hx, hv]
            exact Memory.read_of_lt hm (by omega)
          · rename_i hx
            rw [Memory.read, if_neg hx]
        · rw [Memory.read, Memory.read]
          split <;> rfl
      · rename_i hlt hne
        rw [Memory.read, Memory.read, ih hm]
        by_cases hx : x = a
        · rw [if_neg (by omega), if_pos hx, if_pos hx]
        · rw [if_neg hx, if_neg hx]

/-- A read after a write: the byte written at its address, every other byte as before. -/
theorem Memory.read_write {m : Memory} (h : Memory.wf m = true) (a : Nat) (v : Byte) (x : Nat) :
    Memory.read (Memory.write m a v) x = if x = a then v else Memory.read m x :=
  Memory.read_write_from h a v x

/-- A read after a run of bytes was written. -/
theorem Memory.read_writeBytes {m : Memory} (h : Memory.wf m = true) (a : Nat) (vs : List Byte) (x : Nat) :
    Memory.read (Memory.writeBytes m a vs) x =
      if a ≤ x ∧ x < a + vs.length then vs.getD (x - a) 0 else Memory.read m x := by
  induction vs generalizing m a with
  | nil =>
    rw [Memory.writeBytes, if_neg]
    simp
  | cons v vs ih =>
    rw [Memory.writeBytes, ih (Memory.write_wf h a v), Memory.read_write h]
    simp only [List.length_cons]
    by_cases hx : x = a
    · subst hx
      simp
    · by_cases hin : a ≤ x ∧ x < a + (vs.length + 1)
      · have : x - a = (x - (a + 1)) + 1 := by omega
        rw [if_pos (by omega), if_pos hin, this, List.getD_cons_succ]
      · rw [if_neg (by omega), if_neg hx, if_neg hin]

@[simp] theorem Memory.readBytes_length (m : Memory) (a n : Nat) : (Memory.readBytes m a n).length = n := by
  simp [Memory.readBytes]

end Sys2Proof.Machine
end

