-- ==== Sys2Proof/Laws/State.lean ====
section
/-! SUPPORT. The field lemmas of the named updates of `State`: what each field is after each update. -/

namespace Sys2Proof.Machine

/-! ### `advance` -/

@[simp] theorem State.advance_cfg (s : State) (rest : List Event) : (s.advance rest).cfg = s.cfg := rfl
@[simp] theorem State.advance_src (s : State) (rest : List Event) : (s.advance rest).src = s.src := rfl
@[simp] theorem State.advance_dst (s : State) (rest : List Event) : (s.advance rest).dst = s.dst := rfl
@[simp] theorem State.advance_len (s : State) (rest : List Event) : (s.advance rest).len = s.len := rfl
@[simp] theorem State.advance_progress (s : State) (rest : List Event) : (s.advance rest).progress = s.progress := rfl
@[simp] theorem State.advance_busy (s : State) (rest : List Event) : (s.advance rest).busy = s.busy := rfl
@[simp] theorem State.advance_keyValid (s : State) (rest : List Event) : (s.advance rest).keyValid = s.keyValid := rfl
@[simp] theorem State.advance_errCode (s : State) (rest : List Event) : (s.advance rest).errCode = s.errCode := rfl
@[simp] theorem State.advance_nr (s : State) (rest : List Event) : (s.advance rest).nr = s.nr := rfl
@[simp] theorem State.advance_phase (s : State) (rest : List Event) : (s.advance rest).phase = s.phase := rfl
@[simp] theorem State.advance_curOp (s : State) (rest : List Event) : (s.advance rest).curOp = s.curOp := rfl
@[simp] theorem State.advance_curSrc (s : State) (rest : List Event) : (s.advance rest).curSrc = s.curSrc := rfl
@[simp] theorem State.advance_curDst (s : State) (rest : List Event) : (s.advance rest).curDst = s.curDst := rfl
@[simp] theorem State.advance_curN (s : State) (rest : List Event) : (s.advance rest).curN = s.curN := rfl
@[simp] theorem State.advance_curI (s : State) (rest : List Event) : (s.advance rest).curI = s.curI := rfl
@[simp] theorem State.advance_ek (s : State) (rest : List Event) : (s.advance rest).ek = s.ek := rfl
@[simp] theorem State.advance_dk (s : State) (rest : List Event) : (s.advance rest).dk = s.dk := rfl
@[simp] theorem State.advance_mem (s : State) (rest : List Event) : (s.advance rest).mem = s.mem := rfl
@[simp] theorem State.advance_script (s : State) (rest : List Event) : (s.advance rest).script = rest := rfl
@[simp] theorem State.advance_hostData (s : State) (rest : List Event) : (s.advance rest).hostData = s.hostData := rfl
@[simp] theorem State.advance_busLog (s : State) (rest : List Event) : (s.advance rest).busLog = s.busLog := rfl
@[simp] theorem State.advance_hostWrote (s : State) (rest : List Event) : (s.advance rest).hostWrote = s.hostWrote := rfl
@[simp] theorem State.advance_engWrote (s : State) (rest : List Event) : (s.advance rest).engWrote = s.engWrote := rfl
@[simp] theorem State.advance_freeCount (s : State) (rest : List Event) : (s.advance rest).freeCount = s.freeCount + 1 := rfl

/-! ### `acceptError` -/

@[simp] theorem State.acceptError_cfg (s : State) (e : ErrCode) : (s.acceptError e).cfg = s.cfg := rfl
@[simp] theorem State.acceptError_src (s : State) (e : ErrCode) : (s.acceptError e).src = s.src := rfl
@[simp] theorem State.acceptError_dst (s : State) (e : ErrCode) : (s.acceptError e).dst = s.dst := rfl
@[simp] theorem State.acceptError_len (s : State) (e : ErrCode) : (s.acceptError e).len = s.len := rfl
@[simp] theorem State.acceptError_progress (s : State) (e : ErrCode) : (s.acceptError e).progress = s.progress := rfl
@[simp] theorem State.acceptError_busy (s : State) (e : ErrCode) : (s.acceptError e).busy = s.busy := rfl
@[simp] theorem State.acceptError_keyValid (s : State) (e : ErrCode) : (s.acceptError e).keyValid = s.keyValid := rfl
@[simp] theorem State.acceptError_errCode (s : State) (e : ErrCode) : (s.acceptError e).errCode = e := rfl
@[simp] theorem State.acceptError_nr (s : State) (e : ErrCode) : (s.acceptError e).nr = s.nr := rfl
@[simp] theorem State.acceptError_phase (s : State) (e : ErrCode) : (s.acceptError e).phase = s.phase := rfl
@[simp] theorem State.acceptError_curOp (s : State) (e : ErrCode) : (s.acceptError e).curOp = s.curOp := rfl
@[simp] theorem State.acceptError_curSrc (s : State) (e : ErrCode) : (s.acceptError e).curSrc = s.curSrc := rfl
@[simp] theorem State.acceptError_curDst (s : State) (e : ErrCode) : (s.acceptError e).curDst = s.curDst := rfl
@[simp] theorem State.acceptError_curN (s : State) (e : ErrCode) : (s.acceptError e).curN = s.curN := rfl
@[simp] theorem State.acceptError_curI (s : State) (e : ErrCode) : (s.acceptError e).curI = s.curI := rfl
@[simp] theorem State.acceptError_ek (s : State) (e : ErrCode) : (s.acceptError e).ek = s.ek := rfl
@[simp] theorem State.acceptError_dk (s : State) (e : ErrCode) : (s.acceptError e).dk = s.dk := rfl
@[simp] theorem State.acceptError_mem (s : State) (e : ErrCode) : (s.acceptError e).mem = s.mem := rfl
@[simp] theorem State.acceptError_script (s : State) (e : ErrCode) : (s.acceptError e).script = s.script := rfl
@[simp] theorem State.acceptError_hostData (s : State) (e : ErrCode) : (s.acceptError e).hostData = s.hostData := rfl
@[simp] theorem State.acceptError_busLog (s : State) (e : ErrCode) : (s.acceptError e).busLog = s.busLog := rfl
@[simp] theorem State.acceptError_hostWrote (s : State) (e : ErrCode) : (s.acceptError e).hostWrote = s.hostWrote := rfl
@[simp] theorem State.acceptError_engWrote (s : State) (e : ErrCode) : (s.acceptError e).engWrote = s.engWrote := rfl
@[simp] theorem State.acceptError_freeCount (s : State) (e : ErrCode) : (s.acceptError e).freeCount = s.freeCount := rfl

/-! ### `latch` -/

@[simp] theorem State.latch_cfg (s : State) (op : Instr) : (s.latch op).cfg = s.cfg := rfl
@[simp] theorem State.latch_src (s : State) (op : Instr) : (s.latch op).src = s.src := rfl
@[simp] theorem State.latch_dst (s : State) (op : Instr) : (s.latch op).dst = s.dst := rfl
@[simp] theorem State.latch_len (s : State) (op : Instr) : (s.latch op).len = s.len := rfl
@[simp] theorem State.latch_progress (s : State) (op : Instr) : (s.latch op).progress = s.progress := rfl
@[simp] theorem State.latch_busy (s : State) (op : Instr) : (s.latch op).busy = s.busy := rfl
@[simp] theorem State.latch_keyValid (s : State) (op : Instr) : (s.latch op).keyValid = s.keyValid := rfl
@[simp] theorem State.latch_errCode (s : State) (op : Instr) : (s.latch op).errCode = s.errCode := rfl
@[simp] theorem State.latch_nr (s : State) (op : Instr) : (s.latch op).nr = s.nr := rfl
@[simp] theorem State.latch_phase (s : State) (op : Instr) : (s.latch op).phase = s.phase := rfl
@[simp] theorem State.latch_curOp (s : State) (op : Instr) : (s.latch op).curOp = op := rfl
@[simp] theorem State.latch_curSrc (s : State) (op : Instr) : (s.latch op).curSrc = s.src := rfl
@[simp] theorem State.latch_curDst (s : State) (op : Instr) : (s.latch op).curDst = s.dst := rfl
@[simp] theorem State.latch_curN (s : State) (op : Instr) : (s.latch op).curN = s.len := rfl
@[simp] theorem State.latch_curI (s : State) (op : Instr) : (s.latch op).curI = 0 := rfl
@[simp] theorem State.latch_ek (s : State) (op : Instr) : (s.latch op).ek = s.ek := rfl
@[simp] theorem State.latch_dk (s : State) (op : Instr) : (s.latch op).dk = s.dk := rfl
@[simp] theorem State.latch_mem (s : State) (op : Instr) : (s.latch op).mem = s.mem := rfl
@[simp] theorem State.latch_script (s : State) (op : Instr) : (s.latch op).script = s.script := rfl
@[simp] theorem State.latch_hostData (s : State) (op : Instr) : (s.latch op).hostData = s.hostData := rfl
@[simp] theorem State.latch_busLog (s : State) (op : Instr) : (s.latch op).busLog = s.busLog := rfl
@[simp] theorem State.latch_hostWrote (s : State) (op : Instr) : (s.latch op).hostWrote = s.hostWrote := rfl
@[simp] theorem State.latch_engWrote (s : State) (op : Instr) : (s.latch op).engWrote = s.engWrote := rfl
@[simp] theorem State.latch_freeCount (s : State) (op : Instr) : (s.latch op).freeCount = s.freeCount := rfl

/-! ### `start` -/

@[simp] theorem State.start_cfg (s : State) (op : Instr) (p : Phase) : (s.start op p).cfg = s.cfg := rfl
@[simp] theorem State.start_src (s : State) (op : Instr) (p : Phase) : (s.start op p).src = s.src := rfl
@[simp] theorem State.start_dst (s : State) (op : Instr) (p : Phase) : (s.start op p).dst = s.dst := rfl
@[simp] theorem State.start_len (s : State) (op : Instr) (p : Phase) : (s.start op p).len = s.len := rfl
@[simp] theorem State.start_progress (s : State) (op : Instr) (p : Phase) : (s.start op p).progress = s.progress := rfl
@[simp] theorem State.start_busy (s : State) (op : Instr) (p : Phase) : (s.start op p).busy = true := rfl
@[simp] theorem State.start_keyValid (s : State) (op : Instr) (p : Phase) : (s.start op p).keyValid = s.keyValid := rfl
@[simp] theorem State.start_errCode (s : State) (op : Instr) (p : Phase) : (s.start op p).errCode = .ok := rfl
@[simp] theorem State.start_nr (s : State) (op : Instr) (p : Phase) : (s.start op p).nr = s.nr := rfl
@[simp] theorem State.start_phase (s : State) (op : Instr) (p : Phase) : (s.start op p).phase = p := rfl
@[simp] theorem State.start_curOp (s : State) (op : Instr) (p : Phase) : (s.start op p).curOp = op := rfl
@[simp] theorem State.start_curSrc (s : State) (op : Instr) (p : Phase) : (s.start op p).curSrc = s.src := rfl
@[simp] theorem State.start_curDst (s : State) (op : Instr) (p : Phase) : (s.start op p).curDst = s.dst := rfl
@[simp] theorem State.start_curN (s : State) (op : Instr) (p : Phase) : (s.start op p).curN = s.len := rfl
@[simp] theorem State.start_curI (s : State) (op : Instr) (p : Phase) : (s.start op p).curI = 0 := rfl
@[simp] theorem State.start_ek (s : State) (op : Instr) (p : Phase) : (s.start op p).ek = s.ek := rfl
@[simp] theorem State.start_dk (s : State) (op : Instr) (p : Phase) : (s.start op p).dk = s.dk := rfl
@[simp] theorem State.start_mem (s : State) (op : Instr) (p : Phase) : (s.start op p).mem = s.mem := rfl
@[simp] theorem State.start_script (s : State) (op : Instr) (p : Phase) : (s.start op p).script = s.script := rfl
@[simp] theorem State.start_hostData (s : State) (op : Instr) (p : Phase) : (s.start op p).hostData = s.hostData := rfl
@[simp] theorem State.start_busLog (s : State) (op : Instr) (p : Phase) : (s.start op p).busLog = [] := rfl
@[simp] theorem State.start_hostWrote (s : State) (op : Instr) (p : Phase) : (s.start op p).hostWrote = s.hostWrote := rfl
@[simp] theorem State.start_engWrote (s : State) (op : Instr) (p : Phase) : (s.start op p).engWrote = s.engWrote := rfl
@[simp] theorem State.start_freeCount (s : State) (op : Instr) (p : Phase) : (s.start op p).freeCount = s.freeCount := rfl

/-! ### `complete` -/

@[simp] theorem State.complete_cfg (s : State) (e : ErrCode) : (s.complete e).cfg = s.cfg := rfl
@[simp] theorem State.complete_src (s : State) (e : ErrCode) : (s.complete e).src = s.src := rfl
@[simp] theorem State.complete_dst (s : State) (e : ErrCode) : (s.complete e).dst = s.dst := rfl
@[simp] theorem State.complete_len (s : State) (e : ErrCode) : (s.complete e).len = s.len := rfl
@[simp] theorem State.complete_progress (s : State) (e : ErrCode) : (s.complete e).progress = s.progress := rfl
@[simp] theorem State.complete_busy (s : State) (e : ErrCode) : (s.complete e).busy = false := rfl
@[simp] theorem State.complete_keyValid (s : State) (e : ErrCode) : (s.complete e).keyValid = s.keyValid := rfl
@[simp] theorem State.complete_errCode (s : State) (e : ErrCode) : (s.complete e).errCode = e := rfl
@[simp] theorem State.complete_nr (s : State) (e : ErrCode) : (s.complete e).nr = s.nr := rfl
@[simp] theorem State.complete_phase (s : State) (e : ErrCode) : (s.complete e).phase = .idle := rfl
@[simp] theorem State.complete_curOp (s : State) (e : ErrCode) : (s.complete e).curOp = Config.freeOp s.freeCount := rfl
@[simp] theorem State.complete_curSrc (s : State) (e : ErrCode) : (s.complete e).curSrc = Config.freeSrc s.freeCount := rfl
@[simp] theorem State.complete_curDst (s : State) (e : ErrCode) : (s.complete e).curDst = Config.freeDst s.freeCount := rfl
@[simp] theorem State.complete_curN (s : State) (e : ErrCode) : (s.complete e).curN = Config.freeN s.freeCount := rfl
@[simp] theorem State.complete_curI (s : State) (e : ErrCode) : (s.complete e).curI = Config.freeI s.freeCount := rfl
@[simp] theorem State.complete_ek (s : State) (e : ErrCode) : (s.complete e).ek = s.ek := rfl
@[simp] theorem State.complete_dk (s : State) (e : ErrCode) : (s.complete e).dk = s.dk := rfl
@[simp] theorem State.complete_mem (s : State) (e : ErrCode) : (s.complete e).mem = s.mem := rfl
@[simp] theorem State.complete_script (s : State) (e : ErrCode) : (s.complete e).script = s.script := rfl
@[simp] theorem State.complete_hostData (s : State) (e : ErrCode) : (s.complete e).hostData = s.hostData := rfl
@[simp] theorem State.complete_busLog (s : State) (e : ErrCode) : (s.complete e).busLog = s.busLog := rfl
@[simp] theorem State.complete_hostWrote (s : State) (e : ErrCode) : (s.complete e).hostWrote = [] := rfl
@[simp] theorem State.complete_engWrote (s : State) (e : ErrCode) : (s.complete e).engWrote = [] := rfl
@[simp] theorem State.complete_freeCount (s : State) (e : ErrCode) : (s.complete e).freeCount = s.freeCount := rfl

/-! ### `commitKey` -/

@[simp] theorem State.commitKey_cfg (s : State) (k : Schedule) : (s.commitKey k).cfg = s.cfg := rfl
@[simp] theorem State.commitKey_src (s : State) (k : Schedule) : (s.commitKey k).src = s.src := rfl
@[simp] theorem State.commitKey_dst (s : State) (k : Schedule) : (s.commitKey k).dst = s.dst := rfl
@[simp] theorem State.commitKey_len (s : State) (k : Schedule) : (s.commitKey k).len = s.len := rfl
@[simp] theorem State.commitKey_progress (s : State) (k : Schedule) : (s.commitKey k).progress = s.progress := rfl
@[simp] theorem State.commitKey_busy (s : State) (k : Schedule) : (s.commitKey k).busy = s.busy := rfl
@[simp] theorem State.commitKey_keyValid (s : State) (k : Schedule) : (s.commitKey k).keyValid = true := rfl
@[simp] theorem State.commitKey_errCode (s : State) (k : Schedule) : (s.commitKey k).errCode = s.errCode := rfl
@[simp] theorem State.commitKey_nr (s : State) (k : Schedule) : (s.commitKey k).nr = BitVec.ofNat 8 k.nr := rfl
@[simp] theorem State.commitKey_phase (s : State) (k : Schedule) : (s.commitKey k).phase = s.phase := rfl
@[simp] theorem State.commitKey_curOp (s : State) (k : Schedule) : (s.commitKey k).curOp = s.curOp := rfl
@[simp] theorem State.commitKey_curSrc (s : State) (k : Schedule) : (s.commitKey k).curSrc = s.curSrc := rfl
@[simp] theorem State.commitKey_curDst (s : State) (k : Schedule) : (s.commitKey k).curDst = s.curDst := rfl
@[simp] theorem State.commitKey_curN (s : State) (k : Schedule) : (s.commitKey k).curN = s.curN := rfl
@[simp] theorem State.commitKey_curI (s : State) (k : Schedule) : (s.commitKey k).curI = s.curI := rfl
@[simp] theorem State.commitKey_ek (s : State) (k : Schedule) : (s.commitKey k).ek = liveSlots k.nr k.ek := rfl
@[simp] theorem State.commitKey_dk (s : State) (k : Schedule) : (s.commitKey k).dk = liveSlots k.nr k.dk := rfl
@[simp] theorem State.commitKey_mem (s : State) (k : Schedule) : (s.commitKey k).mem = s.mem := rfl
@[simp] theorem State.commitKey_script (s : State) (k : Schedule) : (s.commitKey k).script = s.script := rfl
@[simp] theorem State.commitKey_hostData (s : State) (k : Schedule) : (s.commitKey k).hostData = s.hostData := rfl
@[simp] theorem State.commitKey_busLog (s : State) (k : Schedule) : (s.commitKey k).busLog = s.busLog := rfl
@[simp] theorem State.commitKey_hostWrote (s : State) (k : Schedule) : (s.commitKey k).hostWrote = s.hostWrote := rfl
@[simp] theorem State.commitKey_engWrote (s : State) (k : Schedule) : (s.commitKey k).engWrote = s.engWrote := rfl
@[simp] theorem State.commitKey_freeCount (s : State) (k : Schedule) : (s.commitKey k).freeCount = s.freeCount := rfl

/-! ### `eraseKey` -/

@[simp] theorem State.eraseKey_cfg (s : State) : (s.eraseKey).cfg = s.cfg := rfl
@[simp] theorem State.eraseKey_src (s : State) : (s.eraseKey).src = s.src := rfl
@[simp] theorem State.eraseKey_dst (s : State) : (s.eraseKey).dst = s.dst := rfl
@[simp] theorem State.eraseKey_len (s : State) : (s.eraseKey).len = s.len := rfl
@[simp] theorem State.eraseKey_progress (s : State) : (s.eraseKey).progress = s.progress := rfl
@[simp] theorem State.eraseKey_busy (s : State) : (s.eraseKey).busy = s.busy := rfl
@[simp] theorem State.eraseKey_keyValid (s : State) : (s.eraseKey).keyValid = false := rfl
@[simp] theorem State.eraseKey_errCode (s : State) : (s.eraseKey).errCode = s.errCode := rfl
@[simp] theorem State.eraseKey_nr (s : State) : (s.eraseKey).nr = 0 := rfl
@[simp] theorem State.eraseKey_phase (s : State) : (s.eraseKey).phase = s.phase := rfl
@[simp] theorem State.eraseKey_curOp (s : State) : (s.eraseKey).curOp = s.curOp := rfl
@[simp] theorem State.eraseKey_curSrc (s : State) : (s.eraseKey).curSrc = s.curSrc := rfl
@[simp] theorem State.eraseKey_curDst (s : State) : (s.eraseKey).curDst = s.curDst := rfl
@[simp] theorem State.eraseKey_curN (s : State) : (s.eraseKey).curN = s.curN := rfl
@[simp] theorem State.eraseKey_curI (s : State) : (s.eraseKey).curI = s.curI := rfl
@[simp] theorem State.eraseKey_ek (s : State) : (s.eraseKey).ek = zeroKeys := rfl
@[simp] theorem State.eraseKey_dk (s : State) : (s.eraseKey).dk = zeroKeys := rfl
@[simp] theorem State.eraseKey_mem (s : State) : (s.eraseKey).mem = s.mem := rfl
@[simp] theorem State.eraseKey_script (s : State) : (s.eraseKey).script = s.script := rfl
@[simp] theorem State.eraseKey_hostData (s : State) : (s.eraseKey).hostData = s.hostData := rfl
@[simp] theorem State.eraseKey_busLog (s : State) : (s.eraseKey).busLog = s.busLog := rfl
@[simp] theorem State.eraseKey_hostWrote (s : State) : (s.eraseKey).hostWrote = s.hostWrote := rfl
@[simp] theorem State.eraseKey_engWrote (s : State) : (s.eraseKey).engWrote = s.engWrote := rfl
@[simp] theorem State.eraseKey_freeCount (s : State) : (s.eraseKey).freeCount = s.freeCount := rfl

/-! ### `blockDone` -/

@[simp] theorem State.blockDone_cfg (s : State) : (s.blockDone).cfg = s.cfg := rfl
@[simp] theorem State.blockDone_src (s : State) : (s.blockDone).src = s.src := rfl
@[simp] theorem State.blockDone_dst (s : State) : (s.blockDone).dst = s.dst := rfl
@[simp] theorem State.blockDone_len (s : State) : (s.blockDone).len = s.len := rfl
@[simp] theorem State.blockDone_progress (s : State) : (s.blockDone).progress = (s.curI + 1).setWidth 64 := rfl
@[simp] theorem State.blockDone_busy (s : State) : (s.blockDone).busy = s.busy := rfl
@[simp] theorem State.blockDone_keyValid (s : State) : (s.blockDone).keyValid = s.keyValid := rfl
@[simp] theorem State.blockDone_errCode (s : State) : (s.blockDone).errCode = s.errCode := rfl
@[simp] theorem State.blockDone_nr (s : State) : (s.blockDone).nr = s.nr := rfl
@[simp] theorem State.blockDone_phase (s : State) : (s.blockDone).phase = s.phase := rfl
@[simp] theorem State.blockDone_curOp (s : State) : (s.blockDone).curOp = s.curOp := rfl
@[simp] theorem State.blockDone_curSrc (s : State) : (s.blockDone).curSrc = s.curSrc := rfl
@[simp] theorem State.blockDone_curDst (s : State) : (s.blockDone).curDst = s.curDst := rfl
@[simp] theorem State.blockDone_curN (s : State) : (s.blockDone).curN = s.curN := rfl
@[simp] theorem State.blockDone_curI (s : State) : (s.blockDone).curI = s.curI + 1 := rfl
@[simp] theorem State.blockDone_ek (s : State) : (s.blockDone).ek = s.ek := rfl
@[simp] theorem State.blockDone_dk (s : State) : (s.blockDone).dk = s.dk := rfl
@[simp] theorem State.blockDone_mem (s : State) : (s.blockDone).mem = s.mem := rfl
@[simp] theorem State.blockDone_script (s : State) : (s.blockDone).script = s.script := rfl
@[simp] theorem State.blockDone_hostData (s : State) : (s.blockDone).hostData = s.hostData := rfl
@[simp] theorem State.blockDone_busLog (s : State) : (s.blockDone).busLog = s.busLog := rfl
@[simp] theorem State.blockDone_hostWrote (s : State) : (s.blockDone).hostWrote = s.hostWrote := rfl
@[simp] theorem State.blockDone_engWrote (s : State) : (s.blockDone).engWrote = s.engWrote := rfl
@[simp] theorem State.blockDone_freeCount (s : State) : (s.blockDone).freeCount = s.freeCount := rfl

/-! ### `logAccesses` -/

@[simp] theorem State.logAccesses_cfg (s : State) (k : AccessKind) (as : List Nat) : (s.logAccesses k as).cfg = s.cfg := rfl
@[simp] theorem State.logAccesses_src (s : State) (k : AccessKind) (as : List Nat) : (s.logAccesses k as).src = s.src := rfl
@[simp] theorem State.logAccesses_dst (s : State) (k : AccessKind) (as : List Nat) : (s.logAccesses k as).dst = s.dst := rfl
@[simp] theorem State.logAccesses_len (s : State) (k : AccessKind) (as : List Nat) : (s.logAccesses k as).len = s.len := rfl
@[simp] theorem State.logAccesses_progress (s : State) (k : AccessKind) (as : List Nat) : (s.logAccesses k as).progress = s.progress := rfl
@[simp] theorem State.logAccesses_busy (s : State) (k : AccessKind) (as : List Nat) : (s.logAccesses k as).busy = s.busy := rfl
@[simp] theorem State.logAccesses_keyValid (s : State) (k : AccessKind) (as : List Nat) : (s.logAccesses k as).keyValid = s.keyValid := rfl
@[simp] theorem State.logAccesses_errCode (s : State) (k : AccessKind) (as : List Nat) : (s.logAccesses k as).errCode = s.errCode := rfl
@[simp] theorem State.logAccesses_nr (s : State) (k : AccessKind) (as : List Nat) : (s.logAccesses k as).nr = s.nr := rfl
@[simp] theorem State.logAccesses_phase (s : State) (k : AccessKind) (as : List Nat) : (s.logAccesses k as).phase = s.phase := rfl
@[simp] theorem State.logAccesses_curOp (s : State) (k : AccessKind) (as : List Nat) : (s.logAccesses k as).curOp = s.curOp := rfl
@[simp] theorem State.logAccesses_curSrc (s : State) (k : AccessKind) (as : List Nat) : (s.logAccesses k as).curSrc = s.curSrc := rfl
@[simp] theorem State.logAccesses_curDst (s : State) (k : AccessKind) (as : List Nat) : (s.logAccesses k as).curDst = s.curDst := rfl
@[simp] theorem State.logAccesses_curN (s : State) (k : AccessKind) (as : List Nat) : (s.logAccesses k as).curN = s.curN := rfl
@[simp] theorem State.logAccesses_curI (s : State) (k : AccessKind) (as : List Nat) : (s.logAccesses k as).curI = s.curI := rfl
@[simp] theorem State.logAccesses_ek (s : State) (k : AccessKind) (as : List Nat) : (s.logAccesses k as).ek = s.ek := rfl
@[simp] theorem State.logAccesses_dk (s : State) (k : AccessKind) (as : List Nat) : (s.logAccesses k as).dk = s.dk := rfl
@[simp] theorem State.logAccesses_mem (s : State) (k : AccessKind) (as : List Nat) : (s.logAccesses k as).mem = s.mem := rfl
@[simp] theorem State.logAccesses_script (s : State) (k : AccessKind) (as : List Nat) : (s.logAccesses k as).script = s.script := rfl
@[simp] theorem State.logAccesses_hostData (s : State) (k : AccessKind) (as : List Nat) : (s.logAccesses k as).hostData = s.hostData := rfl
@[simp] theorem State.logAccesses_busLog (s : State) (k : AccessKind) (as : List Nat) : (s.logAccesses k as).busLog = s.busLog ++ as.map (BusAccess.mk k) := rfl
@[simp] theorem State.logAccesses_hostWrote (s : State) (k : AccessKind) (as : List Nat) : (s.logAccesses k as).hostWrote = s.hostWrote := rfl
@[simp] theorem State.logAccesses_engWrote (s : State) (k : AccessKind) (as : List Nat) : (s.logAccesses k as).engWrote = s.engWrote := rfl
@[simp] theorem State.logAccesses_freeCount (s : State) (k : AccessKind) (as : List Nat) : (s.logAccesses k as).freeCount = s.freeCount := rfl

/-! ### `freeBytes` -/

@[simp] theorem State.freeBytes_cfg (s : State) (a n : Nat) : (s.freeBytes a n).cfg = s.cfg := rfl
@[simp] theorem State.freeBytes_src (s : State) (a n : Nat) : (s.freeBytes a n).src = s.src := rfl
@[simp] theorem State.freeBytes_dst (s : State) (a n : Nat) : (s.freeBytes a n).dst = s.dst := rfl
@[simp] theorem State.freeBytes_len (s : State) (a n : Nat) : (s.freeBytes a n).len = s.len := rfl
@[simp] theorem State.freeBytes_progress (s : State) (a n : Nat) : (s.freeBytes a n).progress = s.progress := rfl
@[simp] theorem State.freeBytes_busy (s : State) (a n : Nat) : (s.freeBytes a n).busy = s.busy := rfl
@[simp] theorem State.freeBytes_keyValid (s : State) (a n : Nat) : (s.freeBytes a n).keyValid = s.keyValid := rfl
@[simp] theorem State.freeBytes_errCode (s : State) (a n : Nat) : (s.freeBytes a n).errCode = s.errCode := rfl
@[simp] theorem State.freeBytes_nr (s : State) (a n : Nat) : (s.freeBytes a n).nr = s.nr := rfl
@[simp] theorem State.freeBytes_phase (s : State) (a n : Nat) : (s.freeBytes a n).phase = s.phase := rfl
@[simp] theorem State.freeBytes_curOp (s : State) (a n : Nat) : (s.freeBytes a n).curOp = s.curOp := rfl
@[simp] theorem State.freeBytes_curSrc (s : State) (a n : Nat) : (s.freeBytes a n).curSrc = s.curSrc := rfl
@[simp] theorem State.freeBytes_curDst (s : State) (a n : Nat) : (s.freeBytes a n).curDst = s.curDst := rfl
@[simp] theorem State.freeBytes_curN (s : State) (a n : Nat) : (s.freeBytes a n).curN = s.curN := rfl
@[simp] theorem State.freeBytes_curI (s : State) (a n : Nat) : (s.freeBytes a n).curI = s.curI := rfl
@[simp] theorem State.freeBytes_ek (s : State) (a n : Nat) : (s.freeBytes a n).ek = s.ek := rfl
@[simp] theorem State.freeBytes_dk (s : State) (a n : Nat) : (s.freeBytes a n).dk = s.dk := rfl
@[simp] theorem State.freeBytes_mem (s : State) (a n : Nat) : (s.freeBytes a n).mem = s.mem.writeBytes a ((List.range' a n).map (Config.freeByte s.freeCount)) := rfl
@[simp] theorem State.freeBytes_script (s : State) (a n : Nat) : (s.freeBytes a n).script = s.script := rfl
@[simp] theorem State.freeBytes_hostData (s : State) (a n : Nat) : (s.freeBytes a n).hostData = s.hostData := rfl
@[simp] theorem State.freeBytes_busLog (s : State) (a n : Nat) : (s.freeBytes a n).busLog = s.busLog := rfl
@[simp] theorem State.freeBytes_hostWrote (s : State) (a n : Nat) : (s.freeBytes a n).hostWrote = s.hostWrote := rfl
@[simp] theorem State.freeBytes_engWrote (s : State) (a n : Nat) : (s.freeBytes a n).engWrote = s.engWrote := rfl
@[simp] theorem State.freeBytes_freeCount (s : State) (a n : Nat) : (s.freeBytes a n).freeCount = s.freeCount := rfl

/-! ### `engineWriteByte`, `engineWriteBytes` -/

@[simp] theorem State.engineWriteByte_cfg (s : State) (a : Nat) (v : Byte) : (s.engineWriteByte a v).cfg = s.cfg := rfl
@[simp] theorem State.engineWriteByte_src (s : State) (a : Nat) (v : Byte) : (s.engineWriteByte a v).src = s.src := rfl
@[simp] theorem State.engineWriteByte_dst (s : State) (a : Nat) (v : Byte) : (s.engineWriteByte a v).dst = s.dst := rfl
@[simp] theorem State.engineWriteByte_len (s : State) (a : Nat) (v : Byte) : (s.engineWriteByte a v).len = s.len := rfl
@[simp] theorem State.engineWriteByte_progress (s : State) (a : Nat) (v : Byte) : (s.engineWriteByte a v).progress = s.progress := rfl
@[simp] theorem State.engineWriteByte_busy (s : State) (a : Nat) (v : Byte) : (s.engineWriteByte a v).busy = s.busy := rfl
@[simp] theorem State.engineWriteByte_keyValid (s : State) (a : Nat) (v : Byte) : (s.engineWriteByte a v).keyValid = s.keyValid := rfl
@[simp] theorem State.engineWriteByte_errCode (s : State) (a : Nat) (v : Byte) : (s.engineWriteByte a v).errCode = s.errCode := rfl
@[simp] theorem State.engineWriteByte_nr (s : State) (a : Nat) (v : Byte) : (s.engineWriteByte a v).nr = s.nr := rfl
@[simp] theorem State.engineWriteByte_phase (s : State) (a : Nat) (v : Byte) : (s.engineWriteByte a v).phase = s.phase := rfl
@[simp] theorem State.engineWriteByte_curOp (s : State) (a : Nat) (v : Byte) : (s.engineWriteByte a v).curOp = s.curOp := rfl
@[simp] theorem State.engineWriteByte_curSrc (s : State) (a : Nat) (v : Byte) : (s.engineWriteByte a v).curSrc = s.curSrc := rfl
@[simp] theorem State.engineWriteByte_curDst (s : State) (a : Nat) (v : Byte) : (s.engineWriteByte a v).curDst = s.curDst := rfl
@[simp] theorem State.engineWriteByte_curN (s : State) (a : Nat) (v : Byte) : (s.engineWriteByte a v).curN = s.curN := rfl
@[simp] theorem State.engineWriteByte_curI (s : State) (a : Nat) (v : Byte) : (s.engineWriteByte a v).curI = s.curI := rfl
@[simp] theorem State.engineWriteByte_ek (s : State) (a : Nat) (v : Byte) : (s.engineWriteByte a v).ek = s.ek := rfl
@[simp] theorem State.engineWriteByte_dk (s : State) (a : Nat) (v : Byte) : (s.engineWriteByte a v).dk = s.dk := rfl
@[simp] theorem State.engineWriteByte_script (s : State) (a : Nat) (v : Byte) : (s.engineWriteByte a v).script = s.script := rfl
@[simp] theorem State.engineWriteByte_hostData (s : State) (a : Nat) (v : Byte) : (s.engineWriteByte a v).hostData = s.hostData := rfl
@[simp] theorem State.engineWriteByte_busLog (s : State) (a : Nat) (v : Byte) : (s.engineWriteByte a v).busLog = s.busLog := rfl
@[simp] theorem State.engineWriteByte_hostWrote (s : State) (a : Nat) (v : Byte) : (s.engineWriteByte a v).hostWrote = s.hostWrote := rfl
@[simp] theorem State.engineWriteByte_freeCount (s : State) (a : Nat) (v : Byte) : (s.engineWriteByte a v).freeCount = s.freeCount := rfl

@[simp] theorem State.engineWriteBytes_cfg (s : State) (a : Nat) (vs : List Byte) : (s.engineWriteBytes a vs).cfg = s.cfg := by
  induction vs generalizing s a with
  | nil => rfl
  | cons v vs ih => rw [State.engineWriteBytes, ih]; simp
@[simp] theorem State.engineWriteBytes_src (s : State) (a : Nat) (vs : List Byte) : (s.engineWriteBytes a vs).src = s.src := by
  induction vs generalizing s a with
  | nil => rfl
  | cons v vs ih => rw [State.engineWriteBytes, ih]; simp
@[simp] theorem State.engineWriteBytes_dst (s : State) (a : Nat) (vs : List Byte) : (s.engineWriteBytes a vs).dst = s.dst := by
  induction vs generalizing s a with
  | nil => rfl
  | cons v vs ih => rw [State.engineWriteBytes, ih]; simp
@[simp] theorem State.engineWriteBytes_len (s : State) (a : Nat) (vs : List Byte) : (s.engineWriteBytes a vs).len = s.len := by
  induction vs generalizing s a with
  | nil => rfl
  | cons v vs ih => rw [State.engineWriteBytes, ih]; simp
@[simp] theorem State.engineWriteBytes_progress (s : State) (a : Nat) (vs : List Byte) : (s.engineWriteBytes a vs).progress = s.progress := by
  induction vs generalizing s a with
  | nil => rfl
  | cons v vs ih => rw [State.engineWriteBytes, ih]; simp
@[simp] theorem State.engineWriteBytes_busy (s : State) (a : Nat) (vs : List Byte) : (s.engineWriteBytes a vs).busy = s.busy := by
  induction vs generalizing s a with
  | nil => rfl
  | cons v vs ih => rw [State.engineWriteBytes, ih]; simp
@[simp] theorem State.engineWriteBytes_keyValid (s : State) (a : Nat) (vs : List Byte) : (s.engineWriteBytes a vs).keyValid = s.keyValid := by
  induction vs generalizing s a with
  | nil => rfl
  | cons v vs ih => rw [State.engineWriteBytes, ih]; simp
@[simp] theorem State.engineWriteBytes_errCode (s : State) (a : Nat) (vs : List Byte) : (s.engineWriteBytes a vs).errCode = s.errCode := by
  induction vs generalizing s a with
  | nil => rfl
  | cons v vs ih => rw [State.engineWriteBytes, ih]; simp
@[simp] theorem State.engineWriteBytes_nr (s : State) (a : Nat) (vs : List Byte) : (s.engineWriteBytes a vs).nr = s.nr := by
  induction vs generalizing s a with
  | nil => rfl
  | cons v vs ih => rw [State.engineWriteBytes, ih]; simp
@[simp] theorem State.engineWriteBytes_phase (s : State) (a : Nat) (vs : List Byte) : (s.engineWriteBytes a vs).phase = s.phase := by
  induction vs generalizing s a with
  | nil => rfl
  | cons v vs ih => rw [State.engineWriteBytes, ih]; simp
@[simp] theorem State.engineWriteBytes_curOp (s : State) (a : Nat) (vs : List Byte) : (s.engineWriteBytes a vs).curOp = s.curOp := by
  induction vs generalizing s a with
  | nil => rfl
  | cons v vs ih => rw [State.engineWriteBytes, ih]; simp
@[simp] theorem State.engineWriteBytes_curSrc (s : State) (a : Nat) (vs : List Byte) : (s.engineWriteBytes a vs).curSrc = s.curSrc := by
  induction vs generalizing s a with
  | nil => rfl
  | cons v vs ih => rw [State.engineWriteBytes, ih]; simp
@[simp] theorem State.engineWriteBytes_curDst (s : State) (a : Nat) (vs : List Byte) : (s.engineWriteBytes a vs).curDst = s.curDst := by
  induction vs generalizing s a with
  | nil => rfl
  | cons v vs ih => rw [State.engineWriteBytes, ih]; simp
@[simp] theorem State.engineWriteBytes_curN (s : State) (a : Nat) (vs : List Byte) : (s.engineWriteBytes a vs).curN = s.curN := by
  induction vs generalizing s a with
  | nil => rfl
  | cons v vs ih => rw [State.engineWriteBytes, ih]; simp
@[simp] theorem State.engineWriteBytes_curI (s : State) (a : Nat) (vs : List Byte) : (s.engineWriteBytes a vs).curI = s.curI := by
  induction vs generalizing s a with
  | nil => rfl
  | cons v vs ih => rw [State.engineWriteBytes, ih]; simp
@[simp] theorem State.engineWriteBytes_ek (s : State) (a : Nat) (vs : List Byte) : (s.engineWriteBytes a vs).ek = s.ek := by
  induction vs generalizing s a with
  | nil => rfl
  | cons v vs ih => rw [State.engineWriteBytes, ih]; simp
@[simp] theorem State.engineWriteBytes_dk (s : State) (a : Nat) (vs : List Byte) : (s.engineWriteBytes a vs).dk = s.dk := by
  induction vs generalizing s a with
  | nil => rfl
  | cons v vs ih => rw [State.engineWriteBytes, ih]; simp
@[simp] theorem State.engineWriteBytes_script (s : State) (a : Nat) (vs : List Byte) : (s.engineWriteBytes a vs).script = s.script := by
  induction vs generalizing s a with
  | nil => rfl
  | cons v vs ih => rw [State.engineWriteBytes, ih]; simp
@[simp] theorem State.engineWriteBytes_hostData (s : State) (a : Nat) (vs : List Byte) : (s.engineWriteBytes a vs).hostData = s.hostData := by
  induction vs generalizing s a with
  | nil => rfl
  | cons v vs ih => rw [State.engineWriteBytes, ih]; simp
@[simp] theorem State.engineWriteBytes_busLog (s : State) (a : Nat) (vs : List Byte) : (s.engineWriteBytes a vs).busLog = s.busLog := by
  induction vs generalizing s a with
  | nil => rfl
  | cons v vs ih => rw [State.engineWriteBytes, ih]; simp
@[simp] theorem State.engineWriteBytes_hostWrote (s : State) (a : Nat) (vs : List Byte) : (s.engineWriteBytes a vs).hostWrote = s.hostWrote := by
  induction vs generalizing s a with
  | nil => rfl
  | cons v vs ih => rw [State.engineWriteBytes, ih]; simp
@[simp] theorem State.engineWriteBytes_freeCount (s : State) (a : Nat) (vs : List Byte) : (s.engineWriteBytes a vs).freeCount = s.freeCount := by
  induction vs generalizing s a with
  | nil => rfl
  | cons v vs ih => rw [State.engineWriteBytes, ih]; simp

/-! ### `hostWriteByte`, `hostWriteBytes` -/

@[simp] theorem State.hostWriteByte_cfg (s : State) (a : Nat) (v : Byte) : (s.hostWriteByte a v).cfg = s.cfg := by
  unfold State.hostWriteByte; split <;> rfl
@[simp] theorem State.hostWriteByte_src (s : State) (a : Nat) (v : Byte) : (s.hostWriteByte a v).src = s.src := by
  unfold State.hostWriteByte; split <;> rfl
@[simp] theorem State.hostWriteByte_dst (s : State) (a : Nat) (v : Byte) : (s.hostWriteByte a v).dst = s.dst := by
  unfold State.hostWriteByte; split <;> rfl
@[simp] theorem State.hostWriteByte_len (s : State) (a : Nat) (v : Byte) : (s.hostWriteByte a v).len = s.len := by
  unfold State.hostWriteByte; split <;> rfl
@[simp] theorem State.hostWriteByte_progress (s : State) (a : Nat) (v : Byte) : (s.hostWriteByte a v).progress = s.progress := by
  unfold State.hostWriteByte; split <;> rfl
@[simp] theorem State.hostWriteByte_busy (s : State) (a : Nat) (v : Byte) : (s.hostWriteByte a v).busy = s.busy := by
  unfold State.hostWriteByte; split <;> rfl
@[simp] theorem State.hostWriteByte_keyValid (s : State) (a : Nat) (v : Byte) : (s.hostWriteByte a v).keyValid = s.keyValid := by
  unfold State.hostWriteByte; split <;> rfl
@[simp] theorem State.hostWriteByte_errCode (s : State) (a : Nat) (v : Byte) : (s.hostWriteByte a v).errCode = s.errCode := by
  unfold State.hostWriteByte; split <;> rfl
@[simp] theorem State.hostWriteByte_nr (s : State) (a : Nat) (v : Byte) : (s.hostWriteByte a v).nr = s.nr := by
  unfold State.hostWriteByte; split <;> rfl
@[simp] theorem State.hostWriteByte_phase (s : State) (a : Nat) (v : Byte) : (s.hostWriteByte a v).phase = s.phase := by
  unfold State.hostWriteByte; split <;> rfl
@[simp] theorem State.hostWriteByte_curOp (s : State) (a : Nat) (v : Byte) : (s.hostWriteByte a v).curOp = s.curOp := by
  unfold State.hostWriteByte; split <;> rfl
@[simp] theorem State.hostWriteByte_curSrc (s : State) (a : Nat) (v : Byte) : (s.hostWriteByte a v).curSrc = s.curSrc := by
  unfold State.hostWriteByte; split <;> rfl
@[simp] theorem State.hostWriteByte_curDst (s : State) (a : Nat) (v : Byte) : (s.hostWriteByte a v).curDst = s.curDst := by
  unfold State.hostWriteByte; split <;> rfl
@[simp] theorem State.hostWriteByte_curN (s : State) (a : Nat) (v : Byte) : (s.hostWriteByte a v).curN = s.curN := by
  unfold State.hostWriteByte; split <;> rfl
@[simp] theorem State.hostWriteByte_curI (s : State) (a : Nat) (v : Byte) : (s.hostWriteByte a v).curI = s.curI := by
  unfold State.hostWriteByte; split <;> rfl
@[simp] theorem State.hostWriteByte_ek (s : State) (a : Nat) (v : Byte) : (s.hostWriteByte a v).ek = s.ek := by
  unfold State.hostWriteByte; split <;> rfl
@[simp] theorem State.hostWriteByte_dk (s : State) (a : Nat) (v : Byte) : (s.hostWriteByte a v).dk = s.dk := by
  unfold State.hostWriteByte; split <;> rfl
@[simp] theorem State.hostWriteByte_script (s : State) (a : Nat) (v : Byte) : (s.hostWriteByte a v).script = s.script := by
  unfold State.hostWriteByte; split <;> rfl
@[simp] theorem State.hostWriteByte_hostData (s : State) (a : Nat) (v : Byte) : (s.hostWriteByte a v).hostData = s.hostData := by
  unfold State.hostWriteByte; split <;> rfl
@[simp] theorem State.hostWriteByte_busLog (s : State) (a : Nat) (v : Byte) : (s.hostWriteByte a v).busLog = s.busLog := by
  unfold State.hostWriteByte; split <;> rfl
@[simp] theorem State.hostWriteByte_engWrote (s : State) (a : Nat) (v : Byte) : (s.hostWriteByte a v).engWrote = s.engWrote := by
  unfold State.hostWriteByte; split <;> rfl
@[simp] theorem State.hostWriteByte_freeCount (s : State) (a : Nat) (v : Byte) : (s.hostWriteByte a v).freeCount = s.freeCount := by
  unfold State.hostWriteByte; split <;> rfl

@[simp] theorem State.hostWriteBytes_cfg (s : State) (a : Nat) (vs : List Byte) : (s.hostWriteBytes a vs).cfg = s.cfg := by
  induction vs generalizing s a with
  | nil => rfl
  | cons v vs ih => rw [State.hostWriteBytes, ih]; simp
@[simp] theorem State.hostWriteBytes_src (s : State) (a : Nat) (vs : List Byte) : (s.hostWriteBytes a vs).src = s.src := by
  induction vs generalizing s a with
  | nil => rfl
  | cons v vs ih => rw [State.hostWriteBytes, ih]; simp
@[simp] theorem State.hostWriteBytes_dst (s : State) (a : Nat) (vs : List Byte) : (s.hostWriteBytes a vs).dst = s.dst := by
  induction vs generalizing s a with
  | nil => rfl
  | cons v vs ih => rw [State.hostWriteBytes, ih]; simp
@[simp] theorem State.hostWriteBytes_len (s : State) (a : Nat) (vs : List Byte) : (s.hostWriteBytes a vs).len = s.len := by
  induction vs generalizing s a with
  | nil => rfl
  | cons v vs ih => rw [State.hostWriteBytes, ih]; simp
@[simp] theorem State.hostWriteBytes_progress (s : State) (a : Nat) (vs : List Byte) : (s.hostWriteBytes a vs).progress = s.progress := by
  induction vs generalizing s a with
  | nil => rfl
  | cons v vs ih => rw [State.hostWriteBytes, ih]; simp
@[simp] theorem State.hostWriteBytes_busy (s : State) (a : Nat) (vs : List Byte) : (s.hostWriteBytes a vs).busy = s.busy := by
  induction vs generalizing s a with
  | nil => rfl
  | cons v vs ih => rw [State.hostWriteBytes, ih]; simp
@[simp] theorem State.hostWriteBytes_keyValid (s : State) (a : Nat) (vs : List Byte) : (s.hostWriteBytes a vs).keyValid = s.keyValid := by
  induction vs generalizing s a with
  | nil => rfl
  | cons v vs ih => rw [State.hostWriteBytes, ih]; simp
@[simp] theorem State.hostWriteBytes_errCode (s : State) (a : Nat) (vs : List Byte) : (s.hostWriteBytes a vs).errCode = s.errCode := by
  induction vs generalizing s a with
  | nil => rfl
  | cons v vs ih => rw [State.hostWriteBytes, ih]; simp
@[simp] theorem State.hostWriteBytes_nr (s : State) (a : Nat) (vs : List Byte) : (s.hostWriteBytes a vs).nr = s.nr := by
  induction vs generalizing s a with
  | nil => rfl
  | cons v vs ih => rw [State.hostWriteBytes, ih]; simp
@[simp] theorem State.hostWriteBytes_phase (s : State) (a : Nat) (vs : List Byte) : (s.hostWriteBytes a vs).phase = s.phase := by
  induction vs generalizing s a with
  | nil => rfl
  | cons v vs ih => rw [State.hostWriteBytes, ih]; simp
@[simp] theorem State.hostWriteBytes_curOp (s : State) (a : Nat) (vs : List Byte) : (s.hostWriteBytes a vs).curOp = s.curOp := by
  induction vs generalizing s a with
  | nil => rfl
  | cons v vs ih => rw [State.hostWriteBytes, ih]; simp
@[simp] theorem State.hostWriteBytes_curSrc (s : State) (a : Nat) (vs : List Byte) : (s.hostWriteBytes a vs).curSrc = s.curSrc := by
  induction vs generalizing s a with
  | nil => rfl
  | cons v vs ih => rw [State.hostWriteBytes, ih]; simp
@[simp] theorem State.hostWriteBytes_curDst (s : State) (a : Nat) (vs : List Byte) : (s.hostWriteBytes a vs).curDst = s.curDst := by
  induction vs generalizing s a with
  | nil => rfl
  | cons v vs ih => rw [State.hostWriteBytes, ih]; simp
@[simp] theorem State.hostWriteBytes_curN (s : State) (a : Nat) (vs : List Byte) : (s.hostWriteBytes a vs).curN = s.curN := by
  induction vs generalizing s a with
  | nil => rfl
  | cons v vs ih => rw [State.hostWriteBytes, ih]; simp
@[simp] theorem State.hostWriteBytes_curI (s : State) (a : Nat) (vs : List Byte) : (s.hostWriteBytes a vs).curI = s.curI := by
  induction vs generalizing s a with
  | nil => rfl
  | cons v vs ih => rw [State.hostWriteBytes, ih]; simp
@[simp] theorem State.hostWriteBytes_ek (s : State) (a : Nat) (vs : List Byte) : (s.hostWriteBytes a vs).ek = s.ek := by
  induction vs generalizing s a with
  | nil => rfl
  | cons v vs ih => rw [State.hostWriteBytes, ih]; simp
@[simp] theorem State.hostWriteBytes_dk (s : State) (a : Nat) (vs : List Byte) : (s.hostWriteBytes a vs).dk = s.dk := by
  induction vs generalizing s a with
  | nil => rfl
  | cons v vs ih => rw [State.hostWriteBytes, ih]; simp
@[simp] theorem State.hostWriteBytes_script (s : State) (a : Nat) (vs : List Byte) : (s.hostWriteBytes a vs).script = s.script := by
  induction vs generalizing s a with
  | nil => rfl
  | cons v vs ih => rw [State.hostWriteBytes, ih]; simp
@[simp] theorem State.hostWriteBytes_hostData (s : State) (a : Nat) (vs : List Byte) : (s.hostWriteBytes a vs).hostData = s.hostData := by
  induction vs generalizing s a with
  | nil => rfl
  | cons v vs ih => rw [State.hostWriteBytes, ih]; simp
@[simp] theorem State.hostWriteBytes_busLog (s : State) (a : Nat) (vs : List Byte) : (s.hostWriteBytes a vs).busLog = s.busLog := by
  induction vs generalizing s a with
  | nil => rfl
  | cons v vs ih => rw [State.hostWriteBytes, ih]; simp
@[simp] theorem State.hostWriteBytes_engWrote (s : State) (a : Nat) (vs : List Byte) : (s.hostWriteBytes a vs).engWrote = s.engWrote := by
  induction vs generalizing s a with
  | nil => rfl
  | cons v vs ih => rw [State.hostWriteBytes, ih]; simp
@[simp] theorem State.hostWriteBytes_freeCount (s : State) (a : Nat) (vs : List Byte) : (s.hostWriteBytes a vs).freeCount = s.freeCount := by
  induction vs generalizing s a with
  | nil => rfl
  | cons v vs ih => rw [State.hostWriteBytes, ih]; simp

/-! ### `resetEngine` -/

@[simp] theorem State.resetEngine_cfg (s : State) : s.resetEngine.cfg = s.cfg := rfl
@[simp] theorem State.resetEngine_src (s : State) : s.resetEngine.src = 0 := rfl
@[simp] theorem State.resetEngine_dst (s : State) : s.resetEngine.dst = 0 := rfl
@[simp] theorem State.resetEngine_len (s : State) : s.resetEngine.len = 0 := rfl
@[simp] theorem State.resetEngine_progress (s : State) : s.resetEngine.progress = 0 := rfl
@[simp] theorem State.resetEngine_busy (s : State) : s.resetEngine.busy = false := rfl
@[simp] theorem State.resetEngine_keyValid (s : State) : s.resetEngine.keyValid = false := rfl
@[simp] theorem State.resetEngine_errCode (s : State) : s.resetEngine.errCode = .ok := rfl
@[simp] theorem State.resetEngine_nr (s : State) : s.resetEngine.nr = 0 := rfl
@[simp] theorem State.resetEngine_phase (s : State) : s.resetEngine.phase = .idle := rfl
@[simp] theorem State.resetEngine_curOp (s : State) : s.resetEngine.curOp = .setKey := rfl
@[simp] theorem State.resetEngine_curSrc (s : State) : s.resetEngine.curSrc = 0 := rfl
@[simp] theorem State.resetEngine_curDst (s : State) : s.resetEngine.curDst = 0 := rfl
@[simp] theorem State.resetEngine_curN (s : State) : s.resetEngine.curN = 0 := rfl
@[simp] theorem State.resetEngine_curI (s : State) : s.resetEngine.curI = 0 := rfl
@[simp] theorem State.resetEngine_ek (s : State) : s.resetEngine.ek = zeroKeys := rfl
@[simp] theorem State.resetEngine_dk (s : State) : s.resetEngine.dk = zeroKeys := rfl
@[simp] theorem State.resetEngine_script (s : State) : s.resetEngine.script = s.script := rfl
@[simp] theorem State.resetEngine_hostData (s : State) : s.resetEngine.hostData = s.hostData := rfl
@[simp] theorem State.resetEngine_busLog (s : State) : s.resetEngine.busLog = [] := rfl
@[simp] theorem State.resetEngine_hostWrote (s : State) : s.resetEngine.hostWrote = [] := rfl
@[simp] theorem State.resetEngine_engWrote (s : State) : s.resetEngine.engWrote = [] := rfl
@[simp] theorem State.resetEngine_freeCount (s : State) : s.resetEngine.freeCount = s.freeCount := rfl

end Sys2Proof.Machine
end

