-- ==== Sys2Proof/Laws/Ops.lean ====
section
/-! SUPPORT. One lemma for each shared operation of Machine/Ops.lean: what it answers and what it leaves of memory. -/

namespace Sys2Proof.Machine

/-! ### Races -/

@[simp] theorem choose_nil (pick : Nat) (v : Byte) : choose pick v [] = v := rfl

/-- A raced byte takes one of the values allowed. -/
theorem choose_mem (pick : Nat) (v : Byte) (alts : List Byte) : choose pick v alts = v ∨ choose pick v alts ∈ alts := by
  cases alts with
  | nil => exact .inl rfl
  | cons a as =>
    have h : pick % ((a :: as).length + 1) < (v :: a :: as).length := Nat.mod_lt _ (Nat.succ_pos _)
    rw [choose, List.getD_eq_getElem _ _ h, ← List.mem_cons]
    exact List.getElem_mem h

@[simp] theorem recorded_nil (a : Nat) : recorded [] a = [] := rfl

@[simp] theorem recorded_cons_self (a : Nat) (v : Byte) (l : List Host.Cell) :
    recorded ((a, v) :: l) a = v :: recorded l a := by simp [recorded]

@[simp] theorem recorded_cons_ne {a b : Nat} {v : Byte} {l : List Host.Cell} (h : a ≠ b) :
    recorded ((a, v) :: l) b = recorded l b := by simp [recorded, h]

/-- An engine read gives the byte in memory or a value that the host overwrote (R65). -/
theorem State.engineByte_cases (s : State) (a : Nat) :
    s.engineByte a = s.mem.read a ∨ s.engineByte a ∈ recorded s.hostWrote a := choose_mem _ _ _

/-- Without a race an engine read gives the byte in memory. -/
theorem State.engineByte_of_recorded_nil {s : State} {a : Nat} (h : recorded s.hostWrote a = []) :
    s.engineByte a = s.mem.read a := by rw [State.engineByte, h, choose_nil]

@[simp] theorem State.engineByte_logAccesses (s : State) (k : AccessKind) (as : List Nat) (a : Nat) :
    (s.logAccesses k as).engineByte a = s.engineByte a := rfl

/-! ### The engine's port -/

theorem inBuffer_iff (a base l : Nat) : inBuffer a base l = true ↔ base ≤ a ∧ a < base + l := by simp [inBuffer]

/-- What the statements call the block made of the bytes read is what the machine's CRYPT step stores. -/
theorem State.blockFrom_eq (s : State) (bs : List Byte) : s.blockFrom bs = s.transform (ofBytes bs) := rfl

theorem all_memOk_iff (c : Config) (k : AccessKind) (a n : Nat) :
    (List.range' a n).all (memOk c k) = true ↔ PlatformAnswers c k a n := by
  simp only [List.all_eq_true, List.mem_range'_1, PlatformAnswers, and_imp]

theorem takeWhile_memOk {c : Config} {k : AccessKind} {a n : Nat} (h : PlatformAnswers c k a n) :
    (List.range' a n).takeWhile (memOk c k) = List.range' a n :=
  List.takeWhile_eq_self_iff.mpr (List.all_eq_true.mp ((all_memOk_iff c k a n).mpr h))

/-- A read that the platform answers: every byte, and every access logged. -/
theorem State.memRead_ok {s : State} {a n : Nat} (h : PlatformAnswers s.cfg .read a n) :
    s.memRead a n = (s.logAccesses .read (List.range' a n), some ((List.range' a n).map s.engineByte)) := by
  rw [State.memRead, if_pos ((all_memOk_iff _ _ _ _).mpr h), takeWhile_memOk h]

/-- A read that the platform refuses: BUS_ERROR, nothing but the access log changed. -/
theorem State.memRead_fail {s : State} {a n : Nat} (h : ¬ PlatformAnswers s.cfg .read a n) :
    s.memRead a n = (s.logAccesses .read ((List.range' a n).takeWhile (memOk s.cfg .read)), none) := by
  rw [State.memRead, if_neg (fun g => h ((all_memOk_iff _ _ _ _).mp g))]

/-- A write that the platform answers stores every byte. -/
theorem State.memWrite_ok {s : State} {a : Nat} {v : Vec} (h : PlatformAnswers s.cfg .write a 16) :
    s.memWrite a v = ((s.logAccesses .write (List.range' a 16)).engineWriteBytes a (toBytes v), true) := by
  rw [State.memWrite, if_pos ((all_memOk_iff _ _ _ _).mpr h), takeWhile_memOk h]

/-- A write that the platform refuses: BUS_ERROR, the 16 bytes free. -/
theorem State.memWrite_fail {s : State} {a : Nat} {v : Vec} (h : ¬ PlatformAnswers s.cfg .write a 16) :
    s.memWrite a v =
      ((s.logAccesses .write ((List.range' a 16).takeWhile (memOk s.cfg .write))).freeBytes a 16, false) := by
  rw [State.memWrite, if_neg (fun g => h ((all_memOk_iff _ _ _ _).mp g))]

/-- Engine writes change memory and the record of what they overwrote, nothing else. -/
theorem State.engineWriteBytes_eq (s : State) (a : Nat) (vs : List Byte) :
    s.engineWriteBytes a vs =
      { s with mem := (s.engineWriteBytes a vs).mem, engWrote := (s.engineWriteBytes a vs).engWrote } := by
  induction vs generalizing s a with
  | nil => rfl
  | cons v vs ih =>
    rw [State.engineWriteBytes, ih]
    rfl

/-- Engine writes without a race store the bytes themselves. -/
theorem State.engineWriteBytes_mem {s : State} (h : s.hostWrote = []) (a : Nat) (vs : List Byte) :
    (s.engineWriteBytes a vs).mem = s.mem.writeBytes a vs := by
  induction vs generalizing s a with
  | nil => rfl
  | cons v vs ih =>
    rw [State.engineWriteBytes, ih (by simpa using h), Memory.writeBytes, State.engineWriteByte, h]
    rfl

/-- Engine writes keep the canonical form. -/
theorem State.engineWriteBytes_wf {s : State} (h : Memory.wf s.mem = true) (a : Nat) (vs : List Byte) :
    Memory.wf (s.engineWriteBytes a vs).mem = true := by
  induction vs generalizing s a with
  | nil => exact h
  | cons v vs ih => exact ih (Memory.write_wf h a _) (a + 1)

/-- Engine writes, raced or not, leave every byte outside their run. -/
theorem State.engineWriteBytes_outside {s : State} (h : Memory.wf s.mem = true) (a : Nat) (vs : List Byte) {x : Nat}
    (hx : ¬ (a ≤ x ∧ x < a + vs.length)) : (s.engineWriteBytes a vs).mem.read x = s.mem.read x := by
  induction vs generalizing s a with
  | nil => rfl
  | cons v vs ih =>
    rw [List.length_cons] at hx
    rw [State.engineWriteBytes, ih (Memory.write_wf h a _) (a + 1) (by omega)]
    exact (Memory.read_write h a _ x).trans (if_neg (by omega))

/-- Engine writes record nothing of a byte outside their run. -/
theorem State.engineWriteBytes_record (s : State) (a : Nat) (vs : List Byte) {x : Nat} (hx : ¬ (a ≤ x ∧ x < a + vs.length)) :
    recorded (s.engineWriteBytes a vs).engWrote x = recorded s.engWrote x := by
  induction vs generalizing s a with
  | nil => rfl
  | cons v vs ih =>
    rw [List.length_cons] at hx
    rw [State.engineWriteBytes, ih _ (a + 1) (by omega), State.engineWriteByte]
    exact recorded_cons_ne (by omega)

/-- An engine write stores the byte, or, at a byte the host has written too, either side's value may stand. -/
theorem State.engineWriteByte_read {s : State} (h : Memory.wf s.mem = true) (a : Nat) (v : Byte) :
    (s.engineWriteByte a v).mem.read a = v ∨
      (recorded s.hostWrote a ≠ [] ∧ (s.engineWriteByte a v).mem.read a = s.mem.read a) := by
  simp only [State.engineWriteByte, Memory.read_write h, if_true]
  cases hr : recorded s.hostWrote a with
  | nil => exact .inl (choose_nil _ _)
  | cons o os => exact (choose_mem _ v [s.mem.read a]).imp id fun g => ⟨by simp, List.mem_singleton.mp g⟩

/-- Engine writes, raced or not, at the bytes of their run: `engineWriteByte_read` at each, and the value before is recorded. -/
theorem State.engineWriteBytes_at {s : State} (h : Memory.wf s.mem = true) (a : Nat) (vs : List Byte) {k : Nat}
    (hk : k < vs.length) :
    ((s.engineWriteBytes a vs).mem.read (a + k) = vs.getD k 0 ∨
        (recorded s.hostWrote (a + k) ≠ [] ∧ (s.engineWriteBytes a vs).mem.read (a + k) = s.mem.read (a + k))) ∧
      recorded (s.engineWriteBytes a vs).engWrote (a + k) = s.mem.read (a + k) :: recorded s.engWrote (a + k) := by
  induction vs generalizing s a k with
  | nil => exact absurd hk (Nat.not_lt_zero k)
  | cons v vs ih =>
    have hwf : Memory.wf (s.engineWriteByte a v).mem = true := Memory.write_wf h a _
    cases k with
    | zero =>
      rw [State.engineWriteBytes, Nat.add_zero, State.engineWriteBytes_outside hwf _ _ (by omega),
        State.engineWriteBytes_record _ _ _ (by omega)]
      exact ⟨State.engineWriteByte_read h a v, by simp [State.engineWriteByte]⟩
    | succ k =>
      have hm : (s.engineWriteByte a v).mem.read (a + (k + 1)) = s.mem.read (a + (k + 1)) :=
        (Memory.read_write h a _ _).trans (if_neg (by omega))
      have he : recorded (s.engineWriteByte a v).engWrote (a + (k + 1)) = recorded s.engWrote (a + (k + 1)) := by
        simp [State.engineWriteByte]
      have step := ih hwf (a + 1) (k := k) (by simpa using hk)
      rw [show a + 1 + k = a + (k + 1) by omega, hm, he] at step
      simpa [State.engineWriteBytes] using step

theorem State.freeBytes_wf {s : State} (h : Memory.wf s.mem = true) (a n : Nat) :
    Memory.wf (s.freeBytes a n).mem = true := Memory.writeBytes_wf h a _

theorem State.freeBytes_outside {s : State} (h : Memory.wf s.mem = true) (a n : Nat) {x : Nat}
    (hx : ¬ (a ≤ x ∧ x < a + n)) : (s.freeBytes a n).mem.read x = s.mem.read x := by
  refine (Memory.read_writeBytes h a _ x).trans (if_neg ?_)
  simpa using hx

/-! ### The host's port -/

theorem State.hostWriteByte_wf {s : State} (h : Memory.wf s.mem = true) (a : Nat) (v : Byte) :
    Memory.wf (s.hostWriteByte a v).mem = true := by
  rw [State.hostWriteByte]
  split <;> exact Memory.write_wf h a _

theorem State.hostWriteBytes_wf {s : State} (h : Memory.wf s.mem = true) (a : Nat) (vs : List Byte) :
    Memory.wf (s.hostWriteBytes a vs).mem = true := by
  induction vs generalizing s a with
  | nil => exact h
  | cons v vs ih => exact ih (State.hostWriteByte_wf h a v) (a + 1)

/-- Host writes change memory and the record of what they overwrote, nothing else. -/
theorem State.hostWriteBytes_eq (s : State) (a : Nat) (vs : List Byte) :
    s.hostWriteBytes a vs =
      { s with mem := (s.hostWriteBytes a vs).mem, hostWrote := (s.hostWriteBytes a vs).hostWrote } := by
  induction vs generalizing s a with
  | nil => rfl
  | cons v vs ih =>
    have hb : s.hostWriteByte a v =
        { s with mem := (s.hostWriteByte a v).mem, hostWrote := (s.hostWriteByte a v).hostWrote } := by
      rw [State.hostWriteByte]
      split <;> rfl
    rw [State.hostWriteBytes, ih, hb]

/-- A host write off the buffers of the running command stores the byte and changes nothing else (U8). -/
theorem State.hostWriteByte_off {s : State} {a : Nat} (h : s.readsByte a = false ∧ s.writesByte a = false) (v : Byte) :
    s.hostWriteByte a v = { s with mem := s.mem.write a v } := by
  rw [State.hostWriteByte, h.1, h.2]
  rfl

/-- A host write to a buffer of the running command stores the byte, or, where the engine has written it too, either side's value
may stand (R65). -/
theorem State.hostWriteByte_read {s : State} (h : Memory.wf s.mem = true) (a : Nat) (v : Byte) :
    (s.hostWriteByte a v).mem.read a = v ∨
      (recorded s.engWrote a ≠ [] ∧ (s.hostWriteByte a v).mem.read a = s.mem.read a) := by
  rw [State.hostWriteByte]
  split
  · simp only [Memory.read_write h, if_true]
    cases hr : recorded s.engWrote a with
    | nil => exact .inl (choose_nil _ _)
    | cons o os => exact (choose_mem _ v [s.mem.read a]).imp id fun g => ⟨by simp, List.mem_singleton.mp g⟩
  · exact .inl ((Memory.read_write h a v a).trans (if_pos rfl))

/-- A host write leaves every other byte. -/
theorem State.hostWriteByte_outside {s : State} (h : Memory.wf s.mem = true) (a : Nat) (v : Byte) {x : Nat} (hx : x ≠ a) :
    (s.hostWriteByte a v).mem.read x = s.mem.read x := by
  rw [State.hostWriteByte]
  split <;> exact (Memory.read_write h a _ x).trans (if_neg hx)

/-- Host writes off the buffers of the running command store the bytes and change nothing else (U8). -/
theorem State.hostWriteBytes_off {s : State} (a : Nat) (vs : List Byte)
    (h : ∀ x, a ≤ x → x < a + vs.length → s.readsByte x = false ∧ s.writesByte x = false) :
    s.hostWriteBytes a vs = { s with mem := s.mem.writeBytes a vs } := by
  induction vs generalizing s a with
  | nil => rfl
  | cons v vs ih =>
    rw [List.length_cons] at h
    rw [State.hostWriteBytes, State.hostWriteByte_off (h a (by omega) (by omega)),
      ih (s := { s with mem := s.mem.write a v }) (a + 1) fun x h1 h2 => h x (by omega) (by omega)]
    rfl

/-- A host read of a byte that the running command does not write gives the byte in memory. -/
theorem State.hostByte_off {s : State} {a : Nat} (h : s.writesByte a = false) : s.hostByte a = s.mem.read a := by
  rw [State.hostByte, h]
  rfl

theorem State.readsByte_idle {s : State} (h : s.phase = .idle) (a : Nat) : s.readsByte a = false := by
  rw [State.readsByte, h]

theorem State.writesByte_idle {s : State} (h : s.phase = .idle) (a : Nat) : s.writesByte a = false := by
  rw [State.writesByte, h]

/-- While no command runs, host writes store the bytes and change nothing else. -/
theorem State.hostWriteBytes_idle {s : State} (h : s.phase = .idle) (a : Nat) (vs : List Byte) :
    s.hostWriteBytes a vs = { s with mem := s.mem.writeBytes a vs } :=
  State.hostWriteBytes_off a vs fun x _ _ => ⟨State.readsByte_idle h x, State.writesByte_idle h x⟩

/-- While no command runs, a host read gives the byte in memory. -/
theorem State.hostByte_idle {s : State} (h : s.phase = .idle) (a : Nat) : s.hostByte a = s.mem.read a :=
  State.hostByte_off (State.writesByte_idle h a)

end Sys2Proof.Machine
end

