-- ==== Sys2Proof/Laws/PerInstr.lean ====
section
/-! SUPPORT. What is said of every command as syntax, one lemma per constructor of `Instr`. -/

/-- The encoding of a command: its word has MBZ zero, the command's OP, and reads back as the command. -/
def Sys2Proof.Laws.Encoding.Statement (i : Sys2Proof.Instr) : Prop :=
  i.wellFormed = true ∧ Sys2Proof.mbzField (Sys2Proof.encode i) = 0 ∧
    Sys2Proof.opField (Sys2Proof.encode i) = Sys2Proof.encodeOp i ∧
    Sys2Proof.decodeTableWord 64 (Sys2Proof.encode i).toNat = some i

theorem Sys2Proof.Laws.Encoding.setKey : Sys2Proof.Laws.Encoding.Statement .setKey := by
  unfold Sys2Proof.Laws.Encoding.Statement
  decide

theorem Sys2Proof.Laws.Encoding.encryptN : Sys2Proof.Laws.Encoding.Statement .encryptN := by
  unfold Sys2Proof.Laws.Encoding.Statement
  decide

theorem Sys2Proof.Laws.Encoding.decryptN : Sys2Proof.Laws.Encoding.Statement .decryptN := by
  unfold Sys2Proof.Laws.Encoding.Statement
  decide

theorem Sys2Proof.Laws.Encoding.clear : Sys2Proof.Laws.Encoding.Statement .clear := by
  unfold Sys2Proof.Laws.Encoding.Statement
  decide
end

