-- ==== Sys2Proof/Laws/Step.lean ====
section
/-! SUPPORT. What one transition can do: the acceptance of a command, one engine step in each phase, and the transition that
each pending event asks for. -/

namespace Sys2Proof.Machine

/-! ### Decoding -/

/-- The decoder on the five kinds of words (R76). -/
theorem decode_eq (c : Word) :
    decode c = if c = 0x1 then .ok .setKey else if c = 0x2 then .ok .encryptN else if c = 0x3 then .ok .decryptN
      else if c = 0x4 then .ok .clear
      else if mbzField c = 0 then .error (.reservedOp (opField c)) else .error .mbzNotZero := by
  have split : c = mbzField c ++ opField c := by
    apply BitVec.eq_of_getLsbD_eq
    intro i hi
    rw [BitVec.getLsbD_append, mbzField, opField]
    by_cases h4 : i < 4
    · simp [h4]
    · have h60 : i - 4 < 60 := by omega
      have hi4 : 4 + (i - 4) = i := by omega
      simp [h4, h60, hi4]
  rw [decode]
  by_cases hm : mbzField c = 0
  · rw [if_pos hm]
    rw [hm] at split
    generalize opField c = op at split
    subst split
    revert op
    decide
  · have ne : ∀ k : BitVec 4, c ≠ (0 : BitVec 60) ++ k := by
      intro k hk
      apply hm
      rw [hk]
      clear hk
      revert k
      decide
    rw [if_neg hm, if_neg (show c ≠ 0x1 from ne 1), if_neg (show c ≠ 0x2 from ne 2), if_neg (show c ≠ 0x3 from ne 3),
      if_neg (show c ≠ 0x4 from ne 4), if_neg hm]

/-! ### Acceptance -/

/-- The key lengths an instance accepts. -/
theorem keyLengthAccepted_iff (c : Config) (len : Word) :
    keyLengthAccepted c len = true ↔ (len = 16 ∧ c.keyLengths ≠ .only32) ∨ (len = 32 ∧ c.keyLengths ≠ .only16) := by
  unfold keyLengthAccepted
  cases c.keyLengths <;> simp [KeyLengths.has16, KeyLengths.has32]

theorem inRange_iff (c : Config) (a : Word) (l : Nat) : inRange c a l = true ↔ l = 0 ∨ a.toNat + l ≤ 2 ^ c.addrBits := by
  simp [inRange]

/-- A command written while BUSY = 1 is lost (R231). -/
theorem exec_busy (i : Instr) {s : State} (h : s.busy = true) : exec i s = .next s := by
  cases i <;> simp [exec, execSetKey, execEncryptN, execDecryptN, acceptCrypt, execClear, h]

/-- Everything the write of a command word can do (R230, R231): nothing; record an error; or start a command that was
checked. -/
theorem exec_cases (i : Instr) (s : State) :
    (s.busy = true ∧ exec i s = .next s) ∨
    (s.busy = false ∧ ∃ e, exec i s = .next (s.acceptError e)) ∨
    (s.busy = false ∧ i = .setKey ∧ keyLengthAccepted s.cfg s.len = true ∧ inRange s.cfg s.src s.len.toNat = true ∧
      exec i s = .next (s.start i .key)) ∨
    (s.busy = false ∧ (i = .encryptN ∨ i = .decryptN) ∧ s.keyValid = true ∧
      inRange s.cfg s.src (bufferLength s.len) = true ∧ inRange s.cfg s.dst (bufferLength s.len) = true ∧
      exec i s = .next { s.start i .crypt with progress := 0 }) ∨
    (s.busy = false ∧ i = .clear ∧ exec i s = .next (s.start i .clr)) := by
  cases hb : s.busy
  · have crypt : ∀ op, (∃ e, acceptCrypt op s = .next (s.acceptError e)) ∨
        (s.keyValid = true ∧ inRange s.cfg s.src (bufferLength s.len) = true ∧
          inRange s.cfg s.dst (bufferLength s.len) = true ∧
          acceptCrypt op s = .next { s.start op .crypt with progress := 0 }) := by
      intro op
      rw [acceptCrypt, hb]
      cases hk : s.keyValid
      · exact .inl ⟨_, rfl⟩
      · cases h1 : inRange s.cfg s.src (bufferLength s.len)
        · exact .inl ⟨_, rfl⟩
        · cases h2 : inRange s.cfg s.dst (bufferLength s.len)
          · exact .inl ⟨_, rfl⟩
          · exact .inr ⟨rfl, rfl, rfl, rfl⟩
    cases i with
    | setKey =>
      cases h1 : keyLengthAccepted s.cfg s.len
      · exact .inr (.inl ⟨rfl, .invalidKeyLength, by simp [exec, execSetKey, hb, h1]⟩)
      · cases h2 : inRange s.cfg s.src s.len.toNat
        · exact .inr (.inl ⟨rfl, .addressRange, by simp [exec, execSetKey, hb, h1, h2]⟩)
        · exact .inr (.inr (.inl ⟨rfl, rfl, rfl, rfl, by simp [exec, execSetKey, hb, h1, h2]⟩))
    | encryptN =>
      obtain h | h := crypt .encryptN
      · exact .inr (.inl ⟨rfl, h⟩)
      · exact .inr (.inr (.inr (.inl ⟨rfl, .inl rfl, h⟩)))
    | decryptN =>
      obtain h | h := crypt .decryptN
      · exact .inr (.inl ⟨rfl, h⟩)
      · exact .inr (.inr (.inr (.inl ⟨rfl, .inr rfl, h⟩)))
    | clear => exact .inr (.inr (.inr (.inr ⟨rfl, rfl, by simp [exec, execClear, hb]⟩)))
  · exact .inl ⟨rfl, exec_busy i hb⟩

/-! ### One engine step -/

theorem engineStep_idle {s : State} (h : s.phase = .idle) : engineStep s = .next s := by rw [engineStep, h]

theorem engineStep_clr {s : State} (h : s.phase = .clr) : engineStep s = .next (s.eraseKey.complete .ok) := by
  rw [engineStep, h]
  rfl

/-- The KEY step when the platform answers (R232): the schedule of the bytes read is committed. -/
theorem engineStep_key_ok {s : State} (h : s.phase = .key) (hn : s.curN = 16 ∨ s.curN = 32)
    (ha : PlatformAnswers s.cfg .read s.curSrc.toNat s.curN.toNat) :
    engineStep s = .next (((s.logAccesses .read (List.range' s.curSrc.toNat s.curN.toNat)).commitKey
      (keySched ((List.range' s.curSrc.toNat s.curN.toNat).map s.engineByte))).complete .ok) := by
  rw [engineStep, h]
  simp only [stepKey, if_pos hn]
  rw [State.memRead_ok ha]

/-- The KEY step when the platform refuses a byte (R306): BUS_ERROR, with nothing but the access log and the end of the
command. -/
theorem engineStep_key_fail {s : State} (h : s.phase = .key) (hn : s.curN = 16 ∨ s.curN = 32)
    (ha : ¬ PlatformAnswers s.cfg .read s.curSrc.toNat s.curN.toNat) :
    engineStep s = .next ((s.logAccesses .read
      ((List.range' s.curSrc.toNat s.curN.toNat).takeWhile (memOk s.cfg .read))).complete .busError) := by
  rw [engineStep, h]
  simp only [stepKey, if_pos hn]
  rw [State.memRead_fail ha]

/-- The bytes a CRYPT step reads. -/
def State.inputBlock (s : State) : Vec := ofBytes ((List.range' (blockAddr s.curSrc s.curI) 16).map s.engineByte)

/-- The state after the 16 reads of a CRYPT step. -/
def State.afterRead (s : State) : State := s.logAccesses .read (List.range' (blockAddr s.curSrc s.curI) 16)

/-- The CRYPT step with no block left (R236). -/
theorem engineStep_crypt_done {s : State} (h : s.phase = .crypt) (hi : s.curI.toNat = s.curN.toNat) :
    engineStep s = .next (s.complete .ok) := by
  rw [engineStep, h]
  simp only [stepCrypt, if_pos hi]

/-- The CRYPT step with a block left when the platform answers (R236): the block is done. -/
theorem engineStep_crypt_ok {s : State} (h : s.phase = .crypt) (hi : s.curI.toNat ≠ s.curN.toNat)
    (hn : s.nr = 10 ∨ s.nr = 14) (hr : PlatformAnswers s.cfg .read (blockAddr s.curSrc s.curI) 16)
    (hw : PlatformAnswers s.cfg .write (blockAddr s.curDst s.curI) 16) :
    engineStep s = .next (((s.afterRead.logAccesses .write (List.range' (blockAddr s.curDst s.curI) 16)).engineWriteBytes
      (blockAddr s.curDst s.curI) (toBytes (s.transform s.inputBlock))).blockDone) := by
  rw [engineStep, h]
  simp only [stepCrypt, if_neg hi, if_pos hn]
  rw [State.memRead_ok hr]
  simp only []
  rw [State.memWrite_ok (by exact hw)]
  rfl

/-- The CRYPT step when the platform refuses a read (R306). -/
theorem engineStep_crypt_readFail {s : State} (h : s.phase = .crypt) (hi : s.curI.toNat ≠ s.curN.toNat)
    (hn : s.nr = 10 ∨ s.nr = 14) (hr : ¬ PlatformAnswers s.cfg .read (blockAddr s.curSrc s.curI) 16) :
    engineStep s = .next ((s.logAccesses .read
      ((List.range' (blockAddr s.curSrc s.curI) 16).takeWhile (memOk s.cfg .read))).complete .busError) := by
  rw [engineStep, h]
  simp only [stepCrypt, if_neg hi, if_pos hn]
  rw [State.memRead_fail hr]

/-- The CRYPT step when the platform refuses a write (R306, U10). -/
theorem engineStep_crypt_writeFail {s : State} (h : s.phase = .crypt) (hi : s.curI.toNat ≠ s.curN.toNat)
    (hn : s.nr = 10 ∨ s.nr = 14) (hr : PlatformAnswers s.cfg .read (blockAddr s.curSrc s.curI) 16)
    (hw : ¬ PlatformAnswers s.cfg .write (blockAddr s.curDst s.curI) 16) :
    engineStep s = .next (((s.afterRead.logAccesses .write
      ((List.range' (blockAddr s.curDst s.curI) 16).takeWhile (memOk s.cfg .write))).freeBytes
        (blockAddr s.curDst s.curI) 16).complete .busError) := by
  rw [engineStep, h]
  simp only [stepCrypt, if_neg hi, if_pos hn]
  rw [State.memRead_ok hr]
  simp only []
  rw [State.memWrite_fail (by exact hw)]
  rfl

/-! ### One transition -/

theorem step_nil {s : State} (h : s.script = []) : step s = engineStep (s.advance []) := by
  rw [step, transition, h]

theorem step_cons {s : State} {e : Event} {rest : List Event} (h : s.script = e :: rest) :
    step s = takeEvent e (s.advance rest) := by
  rw [step, transition, h]

/-- A host access built from the register's name reaches it (R77). -/
theorem accessedReg_offset (c : Config) (r : HostReg) : accessedReg c (c.regBase + r.offset) 8 = some r := by
  have h : c.regBase + r.offset - c.regBase = r.offset := by omega
  rw [accessedReg, h]
  cases r <;> simp [HostReg.offset, windowAccessWellFormed, regAtOffset]

/-- Which host accesses reach no register (R22). -/
theorem accessedReg_eq_none_iff (c : Config) (a w : Nat) :
    accessedReg c a w = none ↔ ¬ (w = 8 ∧ ∃ r : HostReg, a = c.regBase + r.offset) := by
  constructor
  · rintro h ⟨rfl, r, rfl⟩
    simp [accessedReg_offset] at h
  · intro h
    rw [accessedReg]
    split
    · rename_i hw
      simp only [windowAccessWellFormed, Bool.and_eq_true, decide_eq_true_eq] at hw
      have off : ∀ r : HostReg, a - c.regBase ≠ r.offset := fun r hr => h ⟨by omega, r, by omega⟩
      have := off .name; have := off .caps; have := off .cmd; have := off .status
      have := off .src; have := off .dst; have := off .len; have := off .progress
      simp only [HostReg.offset] at *
      omega
    · rfl

/-- Which runs of addresses touch the register window (R21). -/
theorem touchesWindow_iff (c : Config) (a n : Nat) :
    touchesWindow c a n = true ↔ ∃ x, a ≤ x ∧ x < a + n ∧ c.regBase ≤ x ∧ x < c.regBase + 64 := by
  simp only [touchesWindow, Bool.and_eq_true, decide_eq_true_eq]
  constructor
  · intro h
    exact ⟨max a c.regBase, by omega, by omega, by omega, by omega⟩
  · rintro ⟨x, h⟩
    omega

/-- A register write with the register's name is `writeReg`. -/
theorem step_wrReg {s : State} {r : HostReg} {v : Word} {rest : List Event}
    (h : s.script = wrReg s.cfg.regBase r v :: rest) : step s = writeReg r v (s.advance rest) := by
  rw [step_cons h, wrReg, takeEvent, hostWr, State.advance_cfg, accessedReg_offset]

/-- A register read with the register's name gives the host its value. -/
theorem step_rdReg {s : State} {r : HostReg} {rest : List Event} (h : s.script = rdReg s.cfg.regBase r :: rest) :
    step s = .next { s.advance rest with hostData := .reg (readReg (s.advance rest) r) } := by
  rw [step_cons h, rdReg, takeEvent, hostRd, State.advance_cfg, accessedReg_offset]
  rfl

/-- The values of the registers do not depend on the model's own fields that a transition moves on. -/
@[simp] theorem readReg_advance (s : State) (rest : List Event) (r : HostReg) : readReg (s.advance rest) r = readReg s r := by
  cases r <;> rfl

end Sys2Proof.Machine
end

