-- ==== Sys2Proof/Tests/Slice0.lean ====
section
/-! SUPPORT. The model's own tests, each with its source in the spec, and for every statement with hypotheses a state and
operands that meet them all. -/

namespace Sys2Proof.Tests

open Sys2Proof.Machine

/-! ### Small states -/

/-- An instance with 256 bytes of memory; the name is the one V13 takes for an example. -/
def cfg : Config where
  addrBits := 8
  regBase := 0x1000
  engineName := 0x5345415056
  keyLengths := .both
  busHoles := []

/-- The instance with one address that refuses reads and one that refuses writes. -/
def holey : Config := { cfg with busHoles := [⟨0x13, 1, .read⟩, ⟨0x25, 1, .write⟩] }

/-- Memory with bytes at an address. -/
def memAt (a : Nat) (bs : List Byte) : Memory := Memory.writeBytes [] a bs

/-- The instance after reset, with memory and pending transitions. -/
def start (m : Memory) (script : List Event) : State := State.resetOf cfg m script

/-- The key of V1. -/
def key : List Byte := [0x00, 0x01, 0x02, 0x03, 0x04, 0x05, 0x06, 0x07, 0x08, 0x09, 0x0A, 0x0B, 0x0C, 0x0D, 0x0E, 0x0F]

/-- The plaintext of V1. -/
def plain : List Byte := [0x00, 0x11, 0x22, 0x33, 0x44, 0x55, 0x66, 0x77, 0x88, 0x99, 0xAA, 0xBB, 0xCC, 0xDD, 0xEE, 0xFF]

/-- The ciphertext of V1. -/
def cipherText : List Byte :=
  [0x69, 0xC4, 0xE0, 0xD8, 0x6A, 0x7B, 0x04, 0x30, 0xD8, 0xCD, 0xB7, 0x80, 0x70, 0xB4, 0xC5, 0x5A]

/-- EK[0..10] of V7. -/
def ekV7 : List Vec :=
  [ofBytes [0x00, 0x70, 0x2A, 0x5A, 0x98, 0xE8, 0xB2, 0xC2, 0x08, 0x78, 0x22, 0x52, 0x90, 0xE0, 0xBA, 0xCA]] ++
  [ofBytes [0x7D, 0xD1, 0x3A, 0x91, 0xE5, 0xA1, 0x80, 0xC3, 0xED, 0x49, 0xAA, 0x09, 0x7D, 0x31, 0x18, 0x53]] ++
  [ofBytes [0xD9, 0x45, 0xED, 0xDB, 0x67, 0xCF, 0xAE, 0x89, 0xD1, 0x3D, 0xCF, 0x89, 0xF7, 0x2F, 0x14, 0x43]] ++
  [ofBytes [0x4F, 0x3E, 0xF8, 0xC0, 0x73, 0x20, 0xB7, 0x8A, 0xF9, 0xB4, 0x99, 0x92, 0x55, 0x4A, 0x6C, 0x12]] ++
  [ofBytes [0x7B, 0xCB, 0xCB, 0xE4, 0x53, 0xAE, 0xFC, 0x2D, 0xF1, 0xD5, 0x5F, 0x64, 0xFF, 0x3A, 0xB3, 0xFF]] ++
  [ofBytes [0xAB, 0xCF, 0x0E, 0xF4, 0xA3, 0xD5, 0xE6, 0xCB, 0x09, 0x20, 0xAD, 0x6F, 0xAD, 0xAE, 0x0A, 0x82]] ++
  [ofBytes [0x74, 0x39, 0x34, 0x6D, 0x8C, 0xAD, 0x65, 0x59, 0xDE, 0xB7, 0x30, 0x52, 0x28, 0xCC, 0x8D, 0xFD]] ++
  [ofBytes [0xCD, 0x3A, 0x01, 0xE5, 0x1A, 0x58, 0xD7, 0x77, 0x9F, 0xAE, 0x54, 0xD1, 0xEC, 0xAD, 0x6A, 0xE7]] ++
  [ofBytes [0xE6, 0x7E, 0x1A, 0x80, 0xA7, 0x1F, 0x2B, 0x0A, 0x63, 0x1C, 0x71, 0xB6, 0xD4, 0xE9, 0xFD, 0x08]] ++
  [ofBytes [0x35, 0x98, 0xDC, 0x0D, 0xC9, 0x29, 0x7A, 0xE0, 0xF1, 0x6D, 0x86, 0xB3, 0x7E, 0x2A, 0xF6, 0x5C]] ++
  [ofBytes [0x70, 0x64, 0x7E, 0xE8, 0x80, 0x48, 0x29, 0xA6, 0x90, 0x72, 0xC4, 0x1C, 0x2E, 0xF7, 0x53, 0x74]]

/-- DK[0..10] of V7. -/
def dkV7 : List Vec :=
  [ofBytes [0x86, 0xD2, 0xCC, 0x7B, 0x94, 0x1D, 0x40, 0x82, 0xF1, 0xE7, 0x76, 0x6D, 0x4F, 0xFC, 0x88, 0xC1]] ++
  [ofBytes [0x37, 0x6C, 0x7C, 0xE8, 0x69, 0xA1, 0xE3, 0x86, 0x6E, 0x09, 0x56, 0x07, 0xF5, 0xA8, 0xAA, 0xF5]] ++
  [ofBytes [0x5F, 0x25, 0x00, 0x1A, 0xB6, 0x40, 0x14, 0xF5, 0xEF, 0x7D, 0x3E, 0x86, 0x73, 0x2C, 0x77, 0x69]] ++
  [ofBytes [0x28, 0x8D, 0xC2, 0x07, 0x01, 0xE4, 0xA1, 0x9B, 0xB1, 0xB9, 0x6A, 0x07, 0x74, 0xE1, 0xFC, 0x3D]] ++
  [ofBytes [0x94, 0xAD, 0x3D, 0x3A, 0xC1, 0xB5, 0x7E, 0xD2, 0x58, 0xB0, 0xD6, 0x74, 0x2D, 0x84, 0x8B, 0x74]] ++
  [ofBytes [0x9E, 0xF0, 0x40, 0xE8, 0xBD, 0xED, 0xB5, 0xA7, 0x71, 0xDC, 0xE2, 0x00, 0x9D, 0x8D, 0xAB, 0x4E]] ++
  [ofBytes [0x2D, 0xF5, 0xEC, 0xA6, 0xCB, 0xD9, 0xA1, 0x4E, 0x24, 0xA1, 0x03, 0x63, 0x04, 0x95, 0x1D, 0x4F]] ++
  [ofBytes [0xCA, 0xC4, 0x4A, 0xC4, 0x0E, 0x94, 0xF6, 0x01, 0x07, 0xDC, 0x46, 0x00, 0xC8, 0x88, 0xA5, 0x95]] ++
  [ofBytes [0xEE, 0xBC, 0x5C, 0x79, 0x2C, 0xA0, 0x0B, 0xB9, 0xE1, 0xBC, 0x07, 0x2D, 0x27, 0xA4, 0x54, 0xE9]] ++
  [ofBytes [0x3B, 0xF4, 0xE4, 0x2C, 0x2A, 0xF4, 0xBB, 0x62, 0x25, 0xF0, 0xFA, 0x28, 0x2E, 0xEA, 0xBF, 0x7C]] ++
  [ofBytes [0x00, 0x09, 0x02, 0x0B, 0x04, 0x0D, 0x06, 0x0F, 0x08, 0x01, 0x0A, 0x03, 0x0C, 0x05, 0x0E, 0x07]]

/-- A round-key file with the slots listed. -/
def file (l : List Vec) : RoundKeys := Vector.ofFn fun j => l.getD j.val zero

/-- An idle engine that holds the key of V1. -/
def keyed (m : Memory) (script : List Event) : State := (start m script).commitKey (keySched key)

/-- An engine in the middle of a one-block ENCRYPT_N or DECRYPT_N from 0x10 to 0x20. -/
def crypting (op : Instr) (m : Memory) (script : List Event) : State :=
  { keyed m script with
    phase := .crypt
    busy := true
    curOp := op
    curSrc := 0x10
    curDst := 0x20
    curN := 1 }

/-- An engine about to load a 16-byte key from 0x10. -/
def keying (m : Memory) (script : List Event) : State :=
  { start m script with phase := .key, busy := true, curSrc := 0x10, curN := 16 }

/-- An engine about to clear its key. -/
def clearing (script : List Event) : State := { keyed [] script with phase := .clr, busy := true, curOp := .clear }

/-- What a test asks of the state that an outcome holds; false of a stop. -/
def holds (o : Host.Outcome State Fault Refusal) (p : State → Bool) : Bool :=
  match o with
  | .next s => p s
  | .fault _ => false
  | .refused _ => false

/-- Is an outcome this refusal? -/
def refuses (o : Host.Outcome State Fault Refusal) (r : Refusal) : Bool :=
  match o with
  | .next _ => false
  | .fault _ => false
  | .refused q => decide (q = r)

/-- Is an outcome this fault? -/
def faults (o : Host.Outcome State Fault Refusal) (f : Fault) : Bool :=
  match o with
  | .next _ => false
  | .fault g => decide (g = f)
  | .refused _ => false

/-! ### WellFormed: one ill-formed term for each check (R9, R22) -/

theorem test_wf_default_config : Config.default.wellFormed = true := by decide
theorem test_wf_addrBits_zero_refused : { cfg with addrBits := 0 }.wellFormed = false := by decide
theorem test_wf_addrBits_65_refused : { cfg with addrBits := 65 }.wellFormed = false := by decide
theorem test_wf_instructions : ∀ i : Instr, i.wellFormed = true := by intro i; cases i <;> rfl
theorem test_wf_access_offset_18 : windowAccessWellFormed 0x18 8 = true := by decide
theorem test_wf_access_width_4_refused : windowAccessWellFormed 0x18 4 = false := by decide
theorem test_wf_access_beyond_window_refused : windowAccessWellFormed 0x40 8 = false := by decide
theorem test_wf_access_unaligned_refused : windowAccessWellFormed 0x1C 8 = false := by decide

/-! ### Decoding: words written out from R70 and R71 -/

theorem test_decode_set_key :
    decode 0b0000000000000000000000000000000000000000000000000000000000000001 = .ok .setKey := by decide
theorem test_decode_encrypt_n :
    decode 0b0000000000000000000000000000000000000000000000000000000000000010 = .ok .encryptN := by decide
theorem test_decode_decrypt_n :
    decode 0b0000000000000000000000000000000000000000000000000000000000000011 = .ok .decryptN := by decide
theorem test_decode_clear :
    decode 0b0000000000000000000000000000000000000000000000000000000000000100 = .ok .clear := by decide
theorem test_decode_op_0 : decode 0x0 = .error (.reservedOp 0x0) := by decide
theorem test_decode_op_5 : decode 0x5 = .error (.reservedOp 0x5) := by decide
theorem test_decode_op_F : decode 0xF = .error (.reservedOp 0xF) := by decide
theorem test_decode_mbz_bit_4 : decode 0x12 = .error .mbzNotZero := by decide
theorem test_decode_mbz_bit_63 : decode 0x8000000000000001 = .error .mbzNotZero := by decide
theorem test_encode : encode .setKey = 0x1 ∧ encode .encryptN = 0x2 ∧ encode .decryptN = 0x3 ∧ encode .clear = 0x4 := by
  decide

/-! ### The first step after reset (R45, R230): LEN is 0 and no key is loaded -/

theorem test_first_step_set_key :
    holds (step (State.reset.withFetchWord 64 0x1)) (fun s => decide (s.errCode = .invalidKeyLength ∧ s.busy = false)) = true := by
  decide
theorem test_first_step_encrypt_n :
    holds (step (State.reset.withFetchWord 64 0x2)) (fun s => decide (s.errCode = .keyNotSet ∧ s.busy = false)) = true := by
  decide
theorem test_first_step_decrypt_n :
    holds (step (State.reset.withFetchWord 64 0x3)) (fun s => decide (s.errCode = .keyNotSet ∧ s.busy = false)) = true := by
  decide
theorem test_first_step_clear :
    holds (step (State.reset.withFetchWord 64 0x4)) (fun s => decide (s.errCode = .ok ∧ s.phase = .clr ∧ s.busy = true)) = true := by
  decide

/-! ### The datapath (V6, V11) -/

/-- V6: an index with bit 7 set gives 0, and bits [6:4] are ignored. -/
theorem test_lookup16_corners :
    toBytes (lookup16 Rom.IPT_LO (ofBytes [0x00, 0x01, 0x0F, 0x80, 0x8F, 0xFF, 0x10, 0x1F])) =
      [0x00, 0x70, 0xCA, 0x00, 0x00, 0x00, 0x00, 0xCA] ++ List.replicate 8 0x00 := by decide +kernel

/-- V6: ShiftRows on the lane numbers. -/
theorem test_permute_sr1 :
    toBytes (permute (ofBytes key) (Rom.SR 1)) =
      [0x00, 0x05, 0x0A, 0x0F, 0x04, 0x09, 0x0E, 0x03, 0x08, 0x0D, 0x02, 0x07, 0x0C, 0x01, 0x06, 0x0B] := by decide +kernel

/-- V6: IPT of sixteen different bytes. -/
theorem test_ipt :
    toBytes (ipt (ofBytes plain)) =
      [0x00, 0x3D, 0x56, 0x6B, 0xE5, 0xD8, 0xB3, 0x8E, 0x89, 0xB4, 0xDF, 0xE2, 0x6C, 0x51, 0x3A, 0x07] := by decide +kernel

/-- V6: ROT_DOWN(BCAST_W3(V), 1). -/
theorem test_rotWord :
    toBytes (rotDown (bcastW3 (ofBytes key)) 1) =
      [0x0D, 0x0E, 0x0F, 0x0C, 0x0D, 0x0E, 0x0F, 0x0C, 0x0D, 0x0E, 0x0F, 0x0C, 0x0D, 0x0E, 0x0F, 0x0C] := by decide +kernel

/-- V11. -/
theorem test_whichSr : whichSr 10 = 2 ∧ whichSr 14 = 2 := by decide

/-- R273: the three products given as examples, and R271: S(0x53) = 0xED. -/
theorem test_fips_field : Fips.mul 0x57 0x83 = 0xC1 ∧ Fips.mul 0x57 0x13 = 0xFE ∧ Fips.mul 0x02 0x80 = 0x1B ∧
    Fips.sbox 0x53 = 0xED := by decide +kernel

/-- V7 and V9 by the FIPS-197 reference: w_1, and s_1 from s_0 (R274, R275). -/
theorem test_fips_round :
    Fips.roundKey key 1 = ofBytes [0xD6, 0xAA, 0x74, 0xFD, 0xD2, 0xAF, 0x72, 0xFA, 0xDA, 0xA6, 0x78, 0xF1, 0xD6, 0xAB, 0x76, 0xFE] ∧
      Fips.stateAfter (ofBytes plain) key 1 =
        ofBytes [0x89, 0xD8, 0x10, 0xE8, 0x85, 0x5A, 0xCE, 0x68, 0x2D, 0x18, 0x43, 0xD8, 0xCB, 0x12, 0x8F, 0xE4] := by
  decide +kernel

/-! ### Commands -/

/-- V7: the first round of the schedule gives EK[1] and DK[9] of the table. -/
theorem test_schedule_round :
    let w := sched128Round (sched128Init (ofBytes key)) 1
    [slot w.ek 1] = (ekV7.drop 1).take 1 ∧ [slot w.dk 9] = (dkV7.drop 9).take 1 := by decide +kernel

/-- V13 row 2: the KEY step leaves STATUS 0xA0002; V14: it has read 0x10 .. 0x1F in order. -/
theorem test_set_key_step :
    holds (engineStep (keying (memAt 0x10 key) [])) (fun s => decide (readReg s .status = 0xA0002 ∧
      s.busLog = (List.range' 0x10 16).map (BusAccess.mk .read))) = true := by decide +kernel

/-- V13 row 3: SET_KEY with LEN = 24 gives code 1 and keeps the key: STATUS 0xA0102. -/
theorem test_set_key_24 :
    holds (exec .setKey { keyed [] [] with len := 24 }) (fun s => decide (readReg s .status = 0xA0102)) = true := by
  decide +kernel

/-- V1: the CRYPT step of an ENCRYPT_N. -/
theorem test_encrypt_step :
    holds (engineStep { crypting .encryptN (memAt 0x10 plain) [] with ek := file ekV7 }) (fun s => decide (
      s.mem.readBytes 0x20 16 = cipherText ∧ s.progress = 1 ∧ s.curI = 1 ∧ s.busy = true)) = true := by decide +kernel

/-- V13 row 8, with 2^8 for 2^64: an input buffer that ends past the address space gives code 4. -/
theorem test_encrypt_out_of_range :
    holds (exec .encryptN { keyed [] [] with src := 0xF0, len := 2 }) (fun s => decide (readReg s .status = 0xA0402)) = true := by
  decide +kernel

/-- V1: the CRYPT step of a DECRYPT_N. -/
theorem test_decrypt_step :
    holds (engineStep { crypting .decryptN (memAt 0x10 cipherText) [] with dk := file dkV7 }) (fun s => decide (
      s.mem.readBytes 0x20 16 = plain ∧ s.progress = 1)) = true := by decide +kernel

/-- V13 row 9: 16·LEN = 2^64 exactly is not wrapped. -/
theorem test_decrypt_length_not_wrapped :
    holds (exec .decryptN { keyed [] [] with len := 0x1000000000000000 }) (fun s => decide (readReg s .status = 0xA0402)) = true := by
  decide +kernel

/-- V13 row 10: CLEAR leaves STATUS 0. -/
theorem test_clear_step :
    holds (engineStep (clearing [])) (fun s => decide (readReg s .status = 0 ∧ s.ek = zeroKeys ∧ s.dk = zeroKeys)) = true := by
  decide +kernel

/-- V13, busy behaviour: CLEAR while BUSY = 1 is ignored. -/
theorem test_clear_busy :
    holds (step (crypting .encryptN [] [command 0x1000 .clear]))
      (fun s => decide (s.phase = .crypt ∧ s.keyValid = true ∧ s.errCode = .ok)) = true := by decide +kernel

/-! ### Host accesses -/

/-- R24 and V13: CAPS of the default parameter and of {16}. -/
theorem test_caps : readReg State.reset .caps = 0x310 ∧ capsWord { cfg with keyLengths := .only16 } = 0x110 := by decide

/-- V13: NAME, byte 0 first. -/
theorem test_name : readReg (start [] []) .name = 0x0000005345415056 ∧ (readReg (start [] []) .name).extractLsb' 0 8 = 0x56 := by
  decide

/-- V13: 0x12 written to CMD gives code 3. -/
theorem test_illegal_word :
    holds (step (start [] [.wr 0x1010 8 0x12])) (fun s => decide (readReg s .status = 0x300)) = true := by decide

/-- U7: a 32-bit write to CMD is refused; R53: memory beyond 2^8 does not exist. -/
theorem test_host_stops :
    refuses (step (start [] [.wr 0x1010 4 0x1])) .malformedRegisterAccess = true ∧
      faults (step (start [] [.mw 0xFF [0x01, 0x02]])) .hostAddressOutside = true := by decide

/-- R331: a reset during a block gives the engine its reset state. -/
theorem test_reset_during_block :
    holds (step (crypting .encryptN [] [.reset]))
      (fun s => decide (s.keyValid = false ∧ s.phase = .idle ∧ s.busy = false ∧ s.nr = 0)) = true := by decide

/-! ### The states above satisfy the invariant -/

theorem start_inv (m : Memory) (script : List Event) (h : Memory.wf m = true) : (start m script).Inv := by
  constructor <;> simp [start, State.resetOf, NoRace, h]

theorem keyed_inv (m : Memory) (script : List Event) (h : Memory.wf m = true) : (keyed m script).Inv := by
  constructor
  case key => exact fun _ => ⟨key, .inl rfl, rfl, rfl, rfl⟩
  all_goals simp [keyed, start, State.resetOf, NoRace, h]

theorem crypting_inv (op : Instr) (m : Memory) (script : List Event) (h : Memory.wf m = true)
    (ho : op = .encryptN ∨ op = .decryptN) : (crypting op m script).Inv := by
  constructor
  case key => exact fun _ => ⟨key, .inl rfl, rfl, rfl, rfl⟩
  case crypt_phase => exact fun _ => ⟨ho, rfl, Nat.zero_le _, rfl, rfl, rfl⟩
  all_goals simp [crypting, keyed, start, State.resetOf, h]

theorem keying_inv (m : Memory) (script : List Event) (h : Memory.wf m = true) : (keying m script).Inv := by
  constructor
  case key_phase => exact fun _ => ⟨rfl, rfl, rfl⟩
  all_goals simp [keying, start, State.resetOf, h]

theorem clearing_inv (script : List Event) : (clearing script).Inv := by
  constructor
  case key => exact fun _ => ⟨key, .inl rfl, rfl, rfl, rfl⟩
  all_goals simp [clearing, keyed, start, State.resetOf, Memory.wf, Memory.wfFrom]

theorem keyed_nr (m : Memory) (script : List Event) : (keyed m script).nr = 10 := rfl

/-! ### Witnesses: command words and acceptance -/

theorem witness_CommandWriteRunsTheDecodedCommand :
    (start [] [.wr 0x1010 8 0x3]).script = wrReg (start [] [.wr 0x1010 8 0x3]).cfg.regBase .cmd 0x3 :: [] ∧
      decode 0x3 = .ok .decryptN ∧ decodeTableWord 64 0x4 = some .clear ∧ (clearing []).script = [] ∧
      (clearing [.engine]).script = .engine :: [] ∧ (start [] []).phase = .idle ∧
      exec .clear (keyed [] []) = .next ((keyed [] []).start .clear .clr) :=
  ⟨by decide, by decide, by decide, rfl, rfl, rfl, rfl⟩

theorem witness_IllegalWordRecordsIllegalCommand :
    (∀ c ∈ [(0x0 : Word), 0x5, 0xF, 0x10, 0x8000000000000001],
      (c.extractLsb' 0 4 = 0x0 ∨ 0x5 ≤ (c.extractLsb' 0 4).toNat ∨ c >>> 4 ≠ 0) ∧
        (start [] [.wr 0x1010 8 c]).script = wrReg (start [] [.wr 0x1010 8 c]).cfg.regBase .cmd c :: []) ∧
      (start [] []).busy = false ∧ (clearing []).busy = true := by
  refine ⟨fun c hc => ?_, rfl, rfl⟩
  simp only [List.mem_cons, List.not_mem_nil, or_false] at hc
  obtain rfl | rfl | rfl | rfl | rfl := hc <;> decide

theorem witness_BusyEngineIgnoresEveryCommandWrite :
    (clearing [command 0x1000 .setKey]).busy = true ∧
      (clearing [command 0x1000 .setKey]).script = wrReg (clearing [command 0x1000 .setKey]).cfg.regBase .cmd 0x1 :: [] := by
  decide

/-- A key buffer that ends exactly at 2^8, for either length. -/
theorem witness_SetKeyIsAccepted :
    ∀ p ∈ [((0xF0 : Word), (16 : Word)), (0xE0, 32)],
      let s := { start [] [] with src := p.1, len := p.2 }
      s.busy = false ∧ ((s.len = 16 ∧ s.cfg.keyLengths ≠ .only32) ∨ (s.len = 32 ∧ s.cfg.keyLengths ≠ .only16)) ∧
        s.src.toNat + s.len.toNat = 2 ^ s.cfg.addrBits := by
  intro p hp
  simp only [List.mem_cons, List.not_mem_nil, or_false] at hp
  obtain rfl | rfl := hp <;> decide

theorem witness_SetKeyRejectsOtherKeyLengths :
    (start [] []).busy = false ∧
      ∀ n ∈ [(0 : Word), 15, 17, 24, 33],
        let s := { start [] [] with len := n }
        ¬ ((s.len = 16 ∧ s.cfg.keyLengths ≠ .only32) ∨ (s.len = 32 ∧ s.cfg.keyLengths ≠ .only16)) := by
  refine ⟨rfl, fun n hn => ?_⟩
  simp only [List.mem_cons, List.not_mem_nil, or_false] at hn
  obtain rfl | rfl | rfl | rfl | rfl := hn <;> decide

/-- An empty batch on addresses out of range, and a block that ends exactly at 2^8. -/
theorem witness_CryptCommandsAreAccepted :
    (keyed [] []).busy = false ∧ (keyed [] []).keyValid = true ∧
      (let s := { keyed [] [] with src := 0x1FF, len := 0 }
       s.len = 0) ∧
      (let s := { keyed [] [] with src := 0xF0, dst := 0xF0, len := 1 }
       s.src.toNat + 16 * s.len.toNat = 2 ^ s.cfg.addrBits ∧ s.dst.toNat + 16 * s.len.toNat = 2 ^ s.cfg.addrBits) := by
  decide

theorem witness_CryptCommandsNeedAKey : (start [] []).busy = false ∧ (start [] []).keyValid = false := by decide

/-- Buffers that end one byte past 2^8. -/
theorem witness_BuffersOutOfRangeAreRejected :
    (let s := { start [] [] with src := 0xF1, len := 16 }
     s.busy = false ∧ s.len = 16 ∧ s.cfg.keyLengths ≠ .only32 ∧ 2 ^ s.cfg.addrBits + 1 = s.src.toNat + s.len.toNat) ∧
      (let s := { keyed [] [] with src := 0xF1, len := 1 }
       s.busy = false ∧ s.keyValid = true ∧ s.len ≠ 0 ∧ 2 ^ s.cfg.addrBits + 1 = s.src.toNat + 16 * s.len.toNat) ∧
      (let s := { keyed [] [] with dst := 0xF1, len := 1 }
       s.busy = false ∧ s.keyValid = true ∧ s.len ≠ 0 ∧ 2 ^ s.cfg.addrBits + 1 = s.dst.toNat + 16 * s.len.toNat) := by
  decide

theorem witness_ClearIsAccepted : (start [] []).busy = false ∧ (keyed [] []).busy = false := by decide

/-! ### Witnesses: whole commands -/

theorem answers (k : AccessKind) (a n : Nat) (h : (List.range' a n).all (memOk cfg k) = true) : PlatformAnswers cfg k a n :=
  (all_memOk_iff cfg k a n).mp h

theorem witness_SetKeyLoadsTheKeySchedule :
    ∀ p ∈ [((0xF0 : Word), (16 : Word)), (0xE0, 32)],
      let s := { start [] [] with src := p.1, len := p.2 }
      s.busy = false ∧ NoRace s ∧
        ((s.len = 16 ∧ s.cfg.keyLengths ≠ .only32) ∨ (s.len = 32 ∧ s.cfg.keyLengths ≠ .only16)) ∧
        s.src.toNat + s.len.toNat ≤ 2 ^ s.cfg.addrBits ∧ PlatformAnswers s.cfg .read s.src.toNat s.len.toNat := by
  intro p hp
  simp only [List.mem_cons, List.not_mem_nil, or_false] at hp
  obtain rfl | rfl := hp
  · exact ⟨rfl, ⟨rfl, rfl⟩, .inl ⟨rfl, by decide⟩, by decide, answers _ _ _ (by decide)⟩
  · exact ⟨rfl, ⟨rfl, rfl⟩, .inr ⟨rfl, by decide⟩, by decide, answers _ _ _ (by decide)⟩

theorem witness_SetKeyBusErrorKeepsTheOldKey :
    let s := { keyed [] [] with cfg := holey, src := 0x10, len := 16 }
    s.busy = false ∧ s.len = 16 ∧ s.cfg.keyLengths ≠ .only32 ∧ s.src.toNat + s.len.toNat ≤ 2 ^ s.cfg.addrBits ∧
      s.src.toNat ≤ 0x13 ∧ 0x13 < s.src.toNat + s.len.toNat ∧ memOk s.cfg .read 0x13 = false := by decide

theorem witness_ClearErasesTheKey : (keyed [] []).busy = false ∧ (keyed [] []).keyValid = true := by decide

theorem witness_CryptStepProcessesOneBlock :
    let s := crypting .encryptN (memAt 0x10 plain) []
    s.phase = .crypt ∧ s.curI.toNat < s.curN.toNat ∧ (s.nr = 10 ∨ s.nr = 14) ∧ s.hostWrote = [] ∧ Memory.wf s.mem = true ∧
      PlatformAnswers s.cfg .read (s.curSrc.toNat + 16 * s.curI.toNat) 16 ∧
      PlatformAnswers s.cfg .write (s.curDst.toNat + 16 * s.curI.toNat) 16 :=
  ⟨rfl, by decide, .inl rfl, rfl, by decide, answers _ _ _ (by decide), answers _ _ _ (by decide)⟩

theorem witness_CryptStepCompletesWhenAllBlocksAreDone :
    let s := { crypting .encryptN [] [] with curI := 1 }
    s.phase = .crypt ∧ s.curI.toNat = s.curN.toNat := by decide

/-- The last byte of the input block is refused. -/
theorem witness_CryptReadBusErrorWritesNothing :
    let s := { crypting .encryptN [] [] with cfg := holey, curSrc := 0x04 }
    s.phase = .crypt ∧ s.curI.toNat ≠ s.curN.toNat ∧ (s.nr = 10 ∨ s.nr = 14) ∧ s.curSrc.toNat + 16 * s.curI.toNat ≤ 0x13 ∧
      0x13 < s.curSrc.toNat + 16 * s.curI.toNat + 16 ∧ memOk s.cfg .read 0x13 = false :=
  ⟨rfl, by decide, .inl rfl, by decide, by decide, by decide⟩

theorem witness_CryptWriteBusErrorTouchesOneBlockOnly :
    let s := { crypting .encryptN [] [] with cfg := holey, curSrc := 0x40 }
    s.phase = .crypt ∧ s.curI.toNat ≠ s.curN.toNat ∧ (s.nr = 10 ∨ s.nr = 14) ∧ Memory.wf s.mem = true ∧
      PlatformAnswers s.cfg .read (s.curSrc.toNat + 16 * s.curI.toNat) 16 ∧
      s.curDst.toNat + 16 * s.curI.toNat ≤ 0x25 ∧ 0x25 < s.curDst.toNat + 16 * s.curI.toNat + 16 ∧
      memOk s.cfg .write 0x25 = false :=
  ⟨rfl, by decide, .inl rfl, rfl, (all_memOk_iff _ _ _ _).mp (by decide), by decide, by decide, by decide⟩

/-- Two blocks, the buffers side by side, either one first. -/
theorem witness_BatchesOfSeparateBuffers :
    ∀ p ∈ [((0x10 : Word), (0x30 : Word)), (0x30, 0x10)],
      let s := { keyed [] [] with src := p.1, dst := p.2, len := 2 }
      s.busy = false ∧ NoRace s ∧ Memory.wf s.mem = true ∧ s.keyValid = true ∧ (s.nr = 10 ∨ s.nr = 14) ∧
        s.src.toNat + 16 * s.len.toNat ≤ 2 ^ s.cfg.addrBits ∧ s.dst.toNat + 16 * s.len.toNat ≤ 2 ^ s.cfg.addrBits ∧
        PlatformAnswers s.cfg .read s.src.toNat (16 * s.len.toNat) ∧
        PlatformAnswers s.cfg .write s.dst.toNat (16 * s.len.toNat) ∧
        (s.src.toNat + 16 * s.len.toNat ≤ s.dst.toNat ∨ s.dst.toNat + 16 * s.len.toNat ≤ s.src.toNat) := by
  intro p hp
  simp only [List.mem_cons, List.not_mem_nil, or_false] at hp
  obtain rfl | rfl := hp
  · exact ⟨rfl, ⟨rfl, rfl⟩, rfl, rfl, .inl rfl, by decide, by decide, answers _ _ _ (by decide), answers _ _ _ (by decide),
      .inl (by decide)⟩
  · exact ⟨rfl, ⟨rfl, rfl⟩, rfl, rfl, .inl rfl, by decide, by decide, answers _ _ _ (by decide), answers _ _ _ (by decide),
      .inr (by decide)⟩

/-- Two blocks in place, at the top of memory. -/
theorem witness_OverlappingBatchIsSequential :
    let s := { keyed [] [] with src := 0xE0, dst := 0xE0, len := 2 }
    s.busy = false ∧ NoRace s ∧ s.keyValid = true ∧ (s.nr = 10 ∨ s.nr = 14) ∧
      s.src.toNat + 16 * s.len.toNat ≤ 2 ^ s.cfg.addrBits ∧ s.dst.toNat + 16 * s.len.toNat ≤ 2 ^ s.cfg.addrBits ∧
      PlatformAnswers s.cfg .read s.src.toNat (16 * s.len.toNat) ∧
      PlatformAnswers s.cfg .write s.dst.toNat (16 * s.len.toNat) :=
  ⟨rfl, ⟨rfl, rfl⟩, rfl, .inl rfl, by decide, by decide, answers _ _ _ (by decide), answers _ _ _ (by decide)⟩

theorem witness_EmptyBatchIsANoOp :
    let s := { keyed [] [] with src := 0xFFFFFFFF, dst := 0xFFFFFFFF, len := 0 }
    s.busy = false ∧ s.keyValid = true ∧ s.len = 0 := by decide

/-! ### Witnesses: the machine as a whole -/

theorem witness_ResetSatisfiesTheInvariant : Memory.wf ([] : Memory) = true ∧ Memory.wf (memAt 0x10 plain) = true := by decide

/-- A next state from a state of the invariant, in every phase. -/
theorem witness_EveryStepKeepsTheInvariant :
    (∃ t, (start [] []).Inv ∧ step (start [] []) = .next t) ∧ (∃ t, (keying [] []).Inv ∧ step (keying [] []) = .next t) ∧
      (∃ t, (crypting .encryptN [] []).Inv ∧ step (crypting .encryptN [] []) = .next t) ∧
      (∃ t, (clearing []).Inv ∧ step (clearing []) = .next t) :=
  ⟨⟨_, start_inv _ _ rfl, rfl⟩,
    ⟨_, keying_inv _ _ rfl, (step_nil rfl).trans (engineStep_key_ok rfl (.inl rfl) (answers _ _ _ (by decide)))⟩,
    ⟨_, crypting_inv _ _ _ rfl (.inl rfl), (step_nil rfl).trans (engineStep_crypt_ok rfl (by decide) (.inl rfl)
      (answers _ _ _ (by decide)) (answers _ _ _ (by decide)))⟩,
    ⟨_, clearing_inv _, (step_nil rfl).trans (engineStep_clr rfl)⟩⟩

/-- A step that changes the key: SET_KEY's, CLEAR's, and a reset. -/
theorem witness_OnlySetKeyClearAndResetChangeTheKey :
    (∃ t, step (keying [] []) = .next t ∧ ¬ SameKey (keying [] []) t) ∧
      (∃ t, step (clearing [.engine]) = .next t ∧ ¬ SameKey (clearing [.engine]) t) ∧
      (∃ t, step (keyed [] [.reset]) = .next t ∧ ¬ SameKey (keyed [] [.reset]) t) := by
  refine ⟨⟨_, (step_nil rfl).trans (engineStep_key_ok rfl (.inl rfl) (answers _ _ _ (by decide))), fun h => ?_⟩,
    ⟨_, (show step (clearing [.engine]) = engineStep ((clearing [.engine]).advance []) from rfl).trans
      (engineStep_clr rfl), fun h => ?_⟩, ⟨(keyed [] [.reset] |>.advance []).resetEngine, rfl, fun h => ?_⟩⟩
  · exact absurd h.1 (by decide)
  · exact absurd h.1 (by decide)
  · exact absurd h.1 (by decide)

theorem witness_EngineWritesOnlyTheOutputBuffer :
    (∃ t, (clearing []).Inv ∧ engineStep (clearing []) = .next t ∧ (clearing []).phase ≠ .crypt) ∧
      (∃ t, (crypting .decryptN [] []).Inv ∧ engineStep (crypting .decryptN [] []) = .next t ∧
        (crypting .decryptN [] []).phase = .crypt) :=
  ⟨⟨_, clearing_inv _, engineStep_clr rfl, by decide⟩,
    ⟨_, crypting_inv _ _ _ rfl (.inr rfl), engineStep_crypt_ok rfl (by decide) (.inl rfl) (answers _ _ _ (by decide))
      (answers _ _ _ (by decide)), rfl⟩⟩

/-- Each kind of malformed access, the memory accesses at the two ends of the window, and both faults at the top of memory. -/
theorem witness_OnlyHostAccessesStopTheMachine :
    (∀ e ∈ [Event.wr 0x1010 4 1, .rd 0x1004 8, .mw 0x0FFF [0, 0], .mr 0x103F 1],
      (start [] [e]).Inv ∧ step (start [] [e]) = .refused .malformedRegisterAccess) ∧
      ∀ e ∈ [Event.mw 0xFF [0, 0], .mr 0x100 1],
        (start [] [e]).Inv ∧ step (start [] [e]) = .fault .hostAddressOutside := by
  refine ⟨fun e he => ⟨start_inv _ _ rfl, ?_⟩, fun e he => ⟨start_inv _ _ rfl, ?_⟩⟩ <;>
    simp only [List.mem_cons, List.not_mem_nil, or_false] at he
  · obtain rfl | rfl | rfl | rfl := he <;> rfl
  · obtain rfl | rfl := he <;> rfl

theorem witness_EveryCommandEnds :
    ((keying [] []).Inv ∧ (keying [] []).phase ≠ .idle) ∧
      ((crypting .encryptN [] []).Inv ∧ (crypting .encryptN [] []).phase ≠ .idle) ∧
      ((clearing []).Inv ∧ (clearing []).phase ≠ .idle) :=
  ⟨⟨keying_inv _ _ rfl, by decide⟩, ⟨crypting_inv _ _ _ rfl (.inl rfl), by decide⟩, ⟨clearing_inv _, by decide⟩⟩

theorem witness_PollingEnds :
    (crypting .encryptN [] [.wait, .reset]).Inv ∧ (crypting .encryptN [] [.wait, .reset]).script = .wait :: [.reset] :=
  ⟨crypting_inv _ _ _ rfl (.inl rfl), rfl⟩

/-- Two states that differ in the round keys and in memory only. -/
theorem witness_StepsRevealNoKeyAndNoData :
    (crypting .encryptN (memAt 0x10 plain) []).publicView =
        { crypting .encryptN [] [] with ek := zeroKeys, dk := zeroKeys }.publicView ∧
      (crypting .encryptN (memAt 0x10 plain) []).mem ≠ (crypting .encryptN [] []).mem := by
  refine ⟨rfl, by decide⟩

/-! ### Witnesses: host accesses -/

theorem witness_OperandRegistersAreWritableAtAnyTime :
    (clearing [.wr 0x1020 8 0x9000]).script = wrReg (clearing []).cfg.regBase .src 0x9000 :: [] ∧
      (clearing [.wr 0x1028 8 0x9000]).script = wrReg (clearing []).cfg.regBase .dst 0x9000 :: [] ∧
      (clearing [.wr 0x1030 8 0x9000]).script = wrReg (clearing []).cfg.regBase .len 0x9000 :: [] := by decide

theorem witness_ReadOnlyRegistersIgnoreWrites :
    ∀ p ∈ [(HostReg.name, 0x1000), (.caps, 0x1008), (.status, 0x1018), (.progress, 0x1038)],
      (p.1 = .name ∨ p.1 = .caps ∨ p.1 = .status ∨ p.1 = .progress) ∧
        (start [] [.wr p.2 8 7]).script = wrReg (start [] []).cfg.regBase p.1 7 :: [] := by decide

theorem witness_RegisterReadsReturnTheCurrentValue :
    (start [] [.rd 0x1018 8]).script = rdReg (start [] []).cfg.regBase .status :: [] := by decide

theorem witness_CapsTellsTheBlockSizeAndTheKeyLengths : (start [] []).cfg.keyLengths = .both := by decide

/-- A wrong width, a wrong offset at the end of the window, and memory accesses that reach its first and last byte. -/
theorem witness_MalformedRegisterAccessesAreRefused :
    (cfg.regBase ≤ 0x1000 ∧ 0x1000 < cfg.regBase + 64 ∧ 4 ≠ 8 ∧
      (start [] [.wr 0x1000 4 0]).script = .wr 0x1000 4 0 :: []) ∧
      (cfg.regBase ≤ 0x103F ∧ 0x103F < cfg.regBase + 64 ∧ (0x103F - cfg.regBase) % 8 ≠ 0 ∧
        (start [] [.rd 0x103F 8]).script = .rd 0x103F 8 :: []) ∧
      (cfg.regBase ≤ 0x1000 ∧ 0x0FFF ≤ 0x1000 ∧ 0x1000 < 0x0FFF + [(0 : Byte), 0].length ∧
        (start [] [.mw 0x0FFF [0, 0]]).script = .mw 0x0FFF [0, 0] :: []) ∧
      (0x103F < cfg.regBase + 64 ∧ 0x103F ≤ 0x103F ∧ 0x103F < 0x103F + 1 ∧
        (start [] [.mr 0x103F 1]).script = .mr 0x103F 1 :: []) := by decide

/-- Idle: two bytes at the top of memory, below the window; and, with the window at 0, one above it. Running: the bytes just
below and just above the buffers of an ENCRYPT_N, and the byte just above a key. -/
theorem witness_HostMemoryWritesAreReadBack :
    (let s := start (memAt 0xFE [1]) [.mw 0xFE [7, 8], .mr 0xFE 2]
     (∀ x, 0xFE ≤ x → x < 0xFE + [(7 : Byte), 8].length → s.readsByte x = false ∧ s.writesByte x = false) ∧
       Memory.wf s.mem = true ∧ 0xFE + [(7 : Byte), 8].length ≤ 2 ^ s.cfg.addrBits ∧
       0xFE + [(7 : Byte), 8].length ≤ s.cfg.regBase ∧ s.script = .mw 0xFE [7, 8] :: .mr 0xFE [(7 : Byte), 8].length :: []) ∧
      (let s := { start [] [.mw 0x40 [7], .mr 0x40 1] with cfg := { cfg with regBase := 0 } }
       s.phase = .idle ∧ s.cfg.regBase + 64 ≤ 0x40 ∧ s.script = .mw 0x40 [7] :: .mr 0x40 [(7 : Byte)].length :: []) ∧
      (∀ a ∈ [0x0F, 0x30],
        let s := crypting .encryptN [] [.mw a [7], .mr a 1]
        (∀ x, a ≤ x → x < a + [(7 : Byte)].length → s.readsByte x = false ∧ s.writesByte x = false) ∧ s.busy = true ∧
          a + [(7 : Byte)].length ≤ 2 ^ s.cfg.addrBits ∧ s.script = .mw a [7] :: .mr a [(7 : Byte)].length :: []) ∧
      (keying [] []).readsByte 0x1F = true ∧ (keying [] []).readsByte 0x20 = false := by
  refine ⟨⟨fun x _ _ => ⟨State.readsByte_idle rfl x, State.writesByte_idle rfl x⟩, by decide⟩, by decide, fun a ha => ?_,
    by decide⟩
  simp only [List.mem_cons, List.not_mem_nil, or_false] at ha
  obtain rfl | rfl := ha <;> refine ⟨fun x h1 h2 => ?_, by decide⟩
  · obtain rfl : x = 0x0F := by simp at h2; omega
    decide
  · obtain rfl : x = 0x30 := by simp at h2; omega
    decide

/-- Host writes to the last input byte, to the first output byte before its block, and to an output byte that the engine has
written; a KEY step and a CRYPT step after a host write; and a host read of the last output byte. -/
theorem witness_RacingHostWriteIsReadOldOrNew :
    (∀ p ∈ [(0x1F, []), (0x20, []), (0x2F, [(0x2F, (0x69 : Byte))])],
      let s := { crypting .encryptN (memAt 0x10 plain) [.mw p.1 [0xAB]] with engWrote := p.2 }
      (s.readsByte p.1 = true ∨ s.writesByte p.1 = true) ∧ Memory.wf s.mem = true ∧ p.1 < 2 ^ s.cfg.addrBits ∧
        p.1 < s.cfg.regBase ∧ s.script = .mw p.1 [0xAB] :: []) ∧
      (let s := { keying (memAt 0x10 plain) [] with hostWrote := [(0x1F, 0xAB)] }
       s.phase = .key ∧ (s.curN = 16 ∨ s.curN = 32) ∧ PlatformAnswers s.cfg .read s.curSrc.toNat s.curN.toNat) ∧
      (let s := { crypting .decryptN (memAt 0x10 plain) [] with hostWrote := [(0x2F, 0xAB), (0x10, 0xCD)] }
       s.phase = .crypt ∧ s.curI.toNat < s.curN.toNat ∧ (s.nr = 10 ∨ s.nr = 14) ∧ Memory.wf s.mem = true ∧
         PlatformAnswers s.cfg .read (s.curSrc.toNat + 16 * s.curI.toNat) 16 ∧
         PlatformAnswers s.cfg .write (s.curDst.toNat + 16 * s.curI.toNat) 16 ∧ recorded s.hostWrote 0x2F ≠ []) ∧
      (let s := crypting .encryptN (memAt 0x10 plain) [.mr 0x2F 1]
       0x2F + 1 ≤ 2 ^ s.cfg.addrBits ∧ 0x2F + 1 ≤ s.cfg.regBase ∧ s.script = .mr 0x2F 1 :: [] ∧
         s.writesByte 0x2F = true ∧ s.curI.toNat ≠ s.curN.toNat ∧
         0x2F = s.curDst.toNat + 16 * s.curI.toNat + (15 : Fin 16).val) := by
  refine ⟨by decide, ⟨rfl, .inl rfl, answers _ _ _ (by decide)⟩,
    ⟨rfl, by decide, .inl rfl, by decide, answers _ _ _ (by decide), answers _ _ _ (by decide), by decide⟩, by decide⟩

theorem witness_ResetAbandonsTheRunningCommand :
    (let s := crypting .encryptN (memAt 0x10 plain) [.reset]
     Memory.wf s.mem = true ∧ s.script = .reset :: []) ∧
      (keyed [] [.reset]).phase ≠ .crypt ∧
      (let s := { crypting .encryptN [] [.reset] with curI := 1 }
       s.curI.toNat = s.curN.toNat) := by decide

/-! ### Witnesses: the datapath and the contract -/

theorem witness_LookupAndPermuteLaneByLane :
    (lane (Rom.SR 1) 1).toNat = (5 : Fin 16).val ∧ ∀ j, (lane (Rom.SR 1) j).toNat < 16 := by decide +kernel

theorem witness_RowShiftSelectorClosedForm : 1 ≤ 1 ∧ 1 ≤ 14 := by decide

theorem witness_KeyMaterialIsTheRoundKeyInTheInternalBasis :
    (key.length = 16 ∧ 10 ≤ 10) ∧ (key ++ key).length = 32 ∧ 7 ≤ 7 ∧ 6 ≤ 6 := by decide

/-- Keys of both lengths, with the last round that the round-state statements cover. -/
theorem witness_AesKey :
    AesKey key ∧ AesKey (key ++ key) ∧ 9 + 1 ≤ (keySched key).nr ∧ 13 + 1 ≤ (keySched (key ++ key)).nr ∧
      1 ≤ 1 ∧ 13 < (keySched (key ++ key)).nr :=
  ⟨.inl rfl, .inr rfl, by decide, by decide, by decide, by decide⟩

theorem witness_LoadedEngineIsAes : (keyed [] []).Inv ∧ (keyed [] []).keyValid = true := ⟨keyed_inv _ _ rfl, rfl⟩

end Sys2Proof.Tests
end

section
/-! The register CAPS (R24): its value for each of the three sets of accepted key lengths, and the statement about its fields. -/

namespace Sys2Proof.Machine

@[simp] theorem readReg_caps (s : State) : readReg s .caps = capsWord s.cfg := rfl

theorem capsWord_of_both {c : Config} (h : c.keyLengths = .both) : capsWord c = 0x310 := by
  rw [capsWord, h]
  decide

theorem capsWord_of_only16 {c : Config} (h : c.keyLengths = .only16) : capsWord c = 0x110 := by
  rw [capsWord, h]
  decide

theorem capsWord_of_only32 {c : Config} (h : c.keyLengths = .only32) : capsWord c = 0x210 := by
  rw [capsWord, h]
  decide

/-- Settles O37: CAPS is one of three words, one for each set of accepted key lengths, and each has the fields of R24. -/
theorem capsTellsTheBlockSizeAndTheKeyLengths : Obligations.CapsTellsTheBlockSizeAndTheKeyLengths := by
  refine ⟨fun s => ?_, fun s h => capsWord_of_both h⟩
  cases h : s.cfg.keyLengths with
  | both =>
    rw [readReg_caps, capsWord_of_both h]
    decide
  | only16 =>
    rw [readReg_caps, capsWord_of_only16 h]
    decide
  | only32 =>
    rw [readReg_caps, capsWord_of_only32 h]
    decide

end Sys2Proof.Machine
end

section
/-! Command words (R70 to R76): the word of each command, the decoder as the inverse of the encoder, the words it rejects, and
what a host write of such a word to CMD does. -/

namespace Sys2Proof.Machine

@[simp] theorem encode_setKey : encode .setKey = 0x1 := by decide
@[simp] theorem encode_encryptN : encode .encryptN = 0x2 := by decide
@[simp] theorem encode_decryptN : encode .decryptN = 0x3 := by decide
@[simp] theorem encode_clear : encode .clear = 0x4 := by decide

theorem decode_encode (i : Instr) : decode (encode i) = .ok i := by
  cases i <;> decide

/-- Each branch of the decoder that names a command is reached by that command's word only. -/
theorem eq_encode_of_decode {c : Word} {i : Instr} (h : decode c = .ok i) : c = encode i := by
  rw [decode_eq] at h
  by_cases h1 : c = 0x1
  · obtain rfl : Instr.setKey = i := by simpa [h1] using h
    rw [h1, encode_setKey]
  by_cases h2 : c = 0x2
  · obtain rfl : Instr.encryptN = i := by simpa [h2] using h
    rw [h2, encode_encryptN]
  by_cases h3 : c = 0x3
  · obtain rfl : Instr.decryptN = i := by simpa [h3] using h
    rw [h3, encode_decryptN]
  by_cases h4 : c = 0x4
  · obtain rfl : Instr.clear = i := by simpa [h4] using h
    rw [h4, encode_clear]
  · rw [if_neg h1, if_neg h2, if_neg h3, if_neg h4] at h
    split at h <;> cases h

theorem decode_eq_ok_iff (c : Word) (i : Instr) : decode c = .ok i ↔ c = encode i :=
  ⟨eq_encode_of_decode, fun h => h ▸ decode_encode i⟩

/-- The decoder rejects exactly the words that encode no command (R76). -/
theorem decode_eq_error_iff (c : Word) : (∃ e, decode c = .error e) ↔ ∀ i, c ≠ encode i := by
  simp only [ne_eq, ← decode_eq_ok_iff]
  cases decode c <;> simp

/-- Settles O1: the decoder gives a command for exactly the word that encodes it, and the four commands have the words 1 to 4. -/
theorem decodeReadsExactlyTheFourCommandWords : Obligations.DecodeReadsExactlyTheFourCommandWords := by
  intro c
  refine ⟨?_, ?_, ?_, ?_, ?_⟩
  · rw [decode_eq_ok_iff, encode_setKey]
  · rw [decode_eq_ok_iff, encode_encryptN]
  · rw [decode_eq_ok_iff, encode_decryptN]
  · rw [decode_eq_ok_iff, encode_clear]
  · rw [decode_eq_error_iff]
    constructor
    · intro h
      exact ⟨h .setKey, h .encryptN, h .decryptN, h .clear⟩
    · rintro ⟨h1, h2, h3, h4⟩ i
      cases i <;> simpa

/-- A word that is illegal by its fields (R74) encodes no command. -/
theorem ne_encode_of_illegalFields {c : Word}
    (h : c.extractLsb' 0 4 = 0x0 ∨ 0x5 ≤ (c.extractLsb' 0 4).toNat ∨ c >>> 4 ≠ 0) (i : Instr) : c ≠ encode i := by
  rintro rfl
  revert h
  cases i <;> decide

/-- A word that the decoder rejects is ignored while BUSY = 1 and else records ILLEGAL_COMMAND (R74, R304). -/
theorem writeCmd_error {c : Word} {e : IllegalCommand} (h : decode c = .error e) (s : State) :
    writeCmd c s = .next (if s.busy then s else s.acceptError .illegalCommand) := by
  rw [writeCmd, h]

/-- Settles O5: a word that is illegal by its fields is one that the decoder rejects, so the write to CMD records the error or is
ignored. -/
theorem illegalWordRecordsIllegalCommand : Obligations.IllegalWordRecordsIllegalCommand := by
  refine ⟨rfl, fun s c rest illegal hs => ?_⟩
  obtain ⟨e, he⟩ := (decode_eq_error_iff c).mpr (ne_encode_of_illegalFields illegal)
  have write : step s = .next (if s.busy then s.advance rest else (s.advance rest).acceptError .illegalCommand) := by
    rw [step_wrReg hs, writeReg, writeCmd_error he, State.advance_busy]
  constructor <;> intro hb
  · rw [write, hb]
    rfl
  · rw [write, if_pos hb]

end Sys2Proof.Machine
end

section
/-! The decryption-key chain (R114): each of its four affine pairs on one byte, by evaluation over the 256 bytes as the rule derives
it, then on a vector, lane by lane. -/

namespace Sys2Proof.Machine

/-- `AFFINE` on one byte (R134). -/
def affineByte (tlo thi : Vec) (x : Byte) : Byte := lookupLane tlo (loNibble x) ^^^ lookupLane thi (hiNibble x)

/-- The basis change IPT on one byte (R101). -/
def iptByte (x : Byte) : Byte := affineByte Rom.IPT_LO Rom.IPT_HI x

/-- The basis change DIPT on one byte (R106). -/
def diptByte (x : Byte) : Byte := affineByte Rom.DIPT_LO Rom.DIPT_HI x

/-- The vector whose lanes are the products of those of `v` by `m` in GF(2^8) (R273). -/
def mulLanes (m : Byte) (v : Vec) : Vec := ofLanes fun j => Fips.mul m (lane v j)

theorem lane_affine_eq_affineByte (v tlo thi : Vec) (j : Fin 16) : lane (affine v tlo thi) j = affineByte tlo thi (lane v j) :=
  lane_affine v tlo thi j

theorem lane_ipt (v : Vec) (j : Fin 16) : lane (ipt v) j = iptByte (lane v j) := lane_affine_eq_affineByte v _ _ j

theorem lane_dipt (v : Vec) (j : Fin 16) : lane (dipt v) j = diptByte (lane v j) := lane_affine_eq_affineByte v _ _ j

theorem lane_mulLanes (m : Byte) (v : Vec) (j : Fin 16) : lane (mulLanes m v) j = Fips.mul m (lane v j) := lane_ofLanes _ j

/-! ### The four pairs on one byte -/

theorem affineByte_dsk01_iptByte :
    ∀ x, affineByte Rom.DSK0 Rom.DSK1 (iptByte x) = diptByte (Fips.mul 0x09 x) := by decide +kernel

theorem affineByte_dsk23_diptByte :
    ∀ x, affineByte Rom.DSK2 Rom.DSK3 (diptByte (Fips.mul 0x09 x)) = diptByte (Fips.mul 0x0D x) := by decide +kernel

theorem affineByte_dsk45_diptByte :
    ∀ x, affineByte Rom.DSK4 Rom.DSK5 (diptByte (Fips.mul 0x0D x)) = diptByte (Fips.mul 0x0B x) := by decide +kernel

theorem affineByte_dsk67_diptByte :
    ∀ x, affineByte Rom.DSK6 Rom.DSK7 (diptByte (Fips.mul 0x0B x)) = diptByte (Fips.mul 0x0E x) ^^^ 0xE8 := by decide +kernel

/-! ### The four pairs on a vector -/

theorem affine_dsk01_ipt (v : Vec) : affine (ipt v) Rom.DSK0 Rom.DSK1 = dipt (mulLanes 0x09 v) :=
  vec_ext fun j => by
    simp only [lane_affine_eq_affineByte, lane_ipt, lane_dipt, lane_mulLanes, affineByte_dsk01_iptByte]

theorem affine_dsk23_dipt (v : Vec) : affine (dipt (mulLanes 0x09 v)) Rom.DSK2 Rom.DSK3 = dipt (mulLanes 0x0D v) :=
  vec_ext fun j => by
    simp only [lane_affine_eq_affineByte, lane_dipt, lane_mulLanes, affineByte_dsk23_diptByte]

theorem affine_dsk45_dipt (v : Vec) : affine (dipt (mulLanes 0x0D v)) Rom.DSK4 Rom.DSK5 = dipt (mulLanes 0x0B v) :=
  vec_ext fun j => by
    simp only [lane_affine_eq_affineByte, lane_dipt, lane_mulLanes, affineByte_dsk45_diptByte]

theorem affine_dsk67_dipt (v : Vec) :
    affine (dipt (mulLanes 0x0B v)) Rom.DSK6 Rom.DSK7 = dipt (mulLanes 0x0E v) ^^^ bcast 0xE8 :=
  vec_ext fun j => by
    simp only [lane_affine_eq_affineByte, lane_dipt, lane_mulLanes, affineByte_dsk67_diptByte, lane_xor, lane_bcast]

/-- Settles O45: each pair takes the product that the pairs before it gave, in the decryption basis, to the next product. -/
theorem decryptionKeyChainMultiplies : Obligations.DecryptionKeyChainMultiplies := by
  intro v
  simp only [affine_dsk01_ipt, affine_dsk23_dipt, affine_dsk45_dipt, affine_dsk67_dipt]
  exact ⟨rfl, rfl, rfl, rfl⟩

end Sys2Proof.Machine
end

section
/-! The linearity of the basis changes (R138). The rule checks each map on all 65536 pairs of bytes; here each table of a map is
checked on the 256 pairs of nibbles, and the map on bytes and on vectors follows. A linear map on bytes that takes nothing but 0 to 0
is bijective. -/

namespace Sys2Proof.Machine

/-- Entry `a ^ b` of the table is entry `a` ^ entry `b` ^ `c`, for all nibbles: its map is affine over GF(2) with constant `c`. -/
abbrev AffineTable (c : Byte) (t : Vec) : Prop :=
  ∀ a b : BitVec 4, lookupLane t ((a ^^^ b).setWidth 8) = lookupLane t (a.setWidth 8) ^^^ lookupLane t (b.setWidth 8) ^^^ c

/-- An affine table with constant 0: its map is linear over GF(2). -/
abbrev LinearTable (t : Vec) : Prop := AffineTable 0#8 t

/-- Both tables of a pair are linear. -/
abbrev LinearPair (tlo thi : Vec) : Prop := LinearTable tlo ∧ LinearTable thi

theorem loNibble_eq_setWidth (x : Byte) : loNibble x = (x.setWidth 4).setWidth 8 := by
  have mask : (x &&& 0x0F).toNat = x.toNat % 2 ^ 4 := Nat.and_two_pow_sub_one_eq_mod x.toNat 4
  rw [loNibble]
  bv_omega

theorem hiNibble_eq_setWidth (x : Byte) : hiNibble x = ((x >>> 4).setWidth 4).setWidth 8 := by
  rw [hiNibble]
  bv_omega

theorem lookupLane_loNibble_xor {c : Byte} {t : Vec} (h : AffineTable c t) (x y : Byte) :
    lookupLane t (loNibble (x ^^^ y)) = lookupLane t (loNibble x) ^^^ lookupLane t (loNibble y) ^^^ c := by
  simp only [loNibble_eq_setWidth, BitVec.setWidth_xor (w := 8)]
  exact h _ _

theorem lookupLane_hiNibble_xor {c : Byte} {t : Vec} (h : AffineTable c t) (x y : Byte) :
    lookupLane t (hiNibble (x ^^^ y)) = lookupLane t (hiNibble x) ^^^ lookupLane t (hiNibble y) ^^^ c := by
  simp only [hiNibble_eq_setWidth, BitVec.ushiftRight_xor_distrib, BitVec.setWidth_xor (w := 8)]
  exact h _ _

/-! ### A pair of tables on one byte and on a vector -/

theorem affineByte_xor {c : Byte} {tlo thi : Vec} (hlo : LinearTable tlo) (hhi : AffineTable c thi) (x y : Byte) :
    affineByte tlo thi (x ^^^ y) = affineByte tlo thi x ^^^ affineByte tlo thi y ^^^ c := by
  simp only [affineByte, lookupLane_loNibble_xor hlo, lookupLane_hiNibble_xor hhi, BitVec.xor_zero]
  ac_rfl

theorem affine_xor {c : Byte} {tlo thi : Vec} (hlo : LinearTable tlo) (hhi : AffineTable c thi) (v w : Vec) :
    affine (v ^^^ w) tlo thi = affine v tlo thi ^^^ affine w tlo thi ^^^ bcast c :=
  vec_ext fun j => by simp only [lane_affine_eq_affineByte, lane_xor, lane_bcast, affineByte_xor hlo hhi]

theorem affineByte_xor_of_linear {tlo thi : Vec} (h : LinearPair tlo thi) (x y : Byte) :
    affineByte tlo thi (x ^^^ y) = affineByte tlo thi x ^^^ affineByte tlo thi y := by
  rw [affineByte_xor h.1 h.2, BitVec.xor_zero]

theorem affine_xor_of_linear {tlo thi : Vec} (h : LinearPair tlo thi) (v w : Vec) :
    affine (v ^^^ w) tlo thi = affine v tlo thi ^^^ affine w tlo thi :=
  vec_ext fun j => by simp only [lane_affine_eq_affineByte, lane_xor, affineByte_xor_of_linear h]

/-- Two bytes with one image differ by a byte with image 0. -/
theorem affineByte_bijective_of_linear {tlo thi : Vec} (h : LinearPair tlo thi)
    (kernel : ∀ x, affineByte tlo thi x = 0#8 → x = 0#8) : Function.Bijective (affineByte tlo thi) := by
  refine Finite.injective_iff_bijective.mp fun x y hxy => ?_
  have image : affineByte tlo thi (x ^^^ y) = 0#8 := by rw [affineByte_xor_of_linear h, hxy, BitVec.xor_self]
  exact BitVec.xor_eq_zero_iff.mp (kernel _ image)

theorem lane_affine_bcast (tlo thi : Vec) : (fun x => lane (affine (bcast x) tlo thi) 0) = affineByte tlo thi :=
  funext fun x => by rw [lane_affine_eq_affineByte, lane_bcast]

/-- What R138 says of each of the four basis changes. -/
theorem affine_linear_and_bijective {tlo thi : Vec} (h : LinearPair tlo thi)
    (kernel : ∀ x, affineByte tlo thi x = 0#8 → x = 0#8) :
    (∀ v w : Vec, affine (v ^^^ w) tlo thi = affine v tlo thi ^^^ affine w tlo thi) ∧
      Function.Bijective fun x : Byte => lane (affine (bcast x) tlo thi) 0 := by
  rw [lane_affine_bcast]
  exact ⟨affine_xor_of_linear h, affineByte_bijective_of_linear h kernel⟩

/-! ### The tables of the ROM -/

theorem basisChange_linearPairs :
    LinearPair Rom.IPT_LO Rom.IPT_HI ∧ LinearPair Rom.DIPT_LO Rom.DIPT_HI ∧ LinearPair Rom.OUT_LO Rom.OUT_HI ∧
      LinearPair Rom.DESKEW_LO Rom.DESKEW_HI := by decide +kernel

theorem chain_linearPairs :
    LinearPair Rom.DSK0 Rom.DSK1 ∧ LinearPair Rom.DSK2 Rom.DSK3 ∧ LinearPair Rom.DSK4 Rom.DSK5 ∧ LinearTable Rom.DSK6 ∧
      AffineTable 0xE8 Rom.DSK7 := by decide +kernel

theorem basisChange_kernels_trivial :
    (∀ x, affineByte Rom.IPT_LO Rom.IPT_HI x = 0#8 → x = 0#8) ∧ (∀ x, affineByte Rom.DIPT_LO Rom.DIPT_HI x = 0#8 → x = 0#8) ∧
      (∀ x, affineByte Rom.OUT_LO Rom.OUT_HI x = 0#8 → x = 0#8) ∧
      ∀ x, affineByte Rom.DESKEW_LO Rom.DESKEW_HI x = 0#8 → x = 0#8 := by decide +kernel

/-- Settles O43: a pair of linear tables gives a linear map, which is bijective on bytes if only 0 goes to 0, and the constant of
the fourth chain pair is that of its table DSK7. -/
theorem basisChangesAreLinear : Obligations.BasisChangesAreLinear := by
  unfold Obligations.BasisChangesAreLinear
  simp only [List.forall_mem_cons, List.not_mem_nil, IsEmpty.forall_iff, implies_true, and_true]
  obtain ⟨iptLinear, diptLinear, outLinear, deskewLinear⟩ := basisChange_linearPairs
  obtain ⟨iptKernel, diptKernel, outKernel, deskewKernel⟩ := basisChange_kernels_trivial
  obtain ⟨dsk01Linear, dsk23Linear, dsk45Linear, dsk6Linear, dsk7Affine⟩ := chain_linearPairs
  refine ⟨⟨?ipt, ?dipt, ?out, ?deskew⟩, ⟨?dsk01, ?dsk23, ?dsk45⟩, ?dsk67⟩
  case ipt => exact affine_linear_and_bijective iptLinear iptKernel
  case dipt => exact affine_linear_and_bijective diptLinear diptKernel
  case out => exact affine_linear_and_bijective outLinear outKernel
  case deskew => exact affine_linear_and_bijective deskewLinear deskewKernel
  case dsk01 => exact affine_xor_of_linear dsk01Linear
  case dsk23 => exact affine_xor_of_linear dsk23Linear
  case dsk45 => exact affine_xor_of_linear dsk45Linear
  case dsk67 => exact affine_xor dsk6Linear dsk7Affine

end Sys2Proof.Machine
end

section
/-! The substitution core (R139, R140) with each output pair: on one byte, by evaluation over the 256 bytes as the rule derives it,
then on a vector, lane by lane. -/

namespace Sys2Proof.Machine

/-- The substitution core on one byte (R139). -/
def subcoreByte (b : Byte) : Byte × Byte :=
  let i := hiNibble b
  let k := loNibble b
  let ak := lookupLane Rom.INV_2 k
  let j := k ^^^ i
  (j ^^^ lookupLane Rom.INV_1 (ak ^^^ lookupLane Rom.INV_1 i), i ^^^ lookupLane Rom.INV_1 (ak ^^^ lookupLane Rom.INV_1 j))

/-- The substitution with the output pair `xu`, `xt` on one byte (R139). -/
def substByte (xu xt : Vec) (b : Byte) : Byte := lookupLane xu (subcoreByte b).1 ^^^ lookupLane xt (subcoreByte b).2

theorem lane_subcore_eq_subcoreByte (b : Vec) (j : Fin 16) :
    (lane (subcore b).1 j, lane (subcore b).2 j) = subcoreByte (lane b j) := by
  simp only [subcore, subcoreByte, lane_xor, lane_lookup16, lane_hi, lane_lo]

/-- The substitution acts on each lane alone (R140). -/
theorem outPair_subcore_eq_ofLanes (xu xt b : Vec) : outPair xu xt (subcore b) = ofLanes fun j => substByte xu xt (lane b j) :=
  vec_ext fun j => by rw [lane_outPair, lane_ofLanes, substByte, ← lane_subcore_eq_subcoreByte]

theorem ipt_ofLanes (f : Fin 16 → Byte) : ipt (ofLanes f) = ofLanes fun j => iptByte (f j) :=
  vec_ext fun j => by simp only [lane_ipt, lane_ofLanes]

theorem dipt_ofLanes (f : Fin 16 → Byte) : dipt (ofLanes f) = ofLanes fun j => diptByte (f j) :=
  vec_ext fun j => by simp only [lane_dipt, lane_ofLanes]

theorem substByte_iptByte :
    ∀ x, substByte Rom.SBOU Rom.SBOT (iptByte x) = Fips.sbox x ^^^ 0x63 ∧
      substByte Rom.SB1U Rom.SB1T (iptByte x) = iptByte (Fips.sbox x ^^^ 0x63) ∧
      substByte Rom.SB2U Rom.SB2T (iptByte x) = iptByte (Fips.mul 0x02 (Fips.sbox x ^^^ 0x63)) := by decide +kernel

theorem substByte_diptByte :
    ∀ x, substByte Rom.DSBOU Rom.DSBOT (diptByte x) = Fips.invSbox (x ^^^ 0x63) ∧
      substByte Rom.SB9U Rom.SB9T (diptByte x) = diptByte (Fips.mul 0x09 (Fips.invSbox (x ^^^ 0x63))) ∧
      substByte Rom.SBDU Rom.SBDT (diptByte x) = diptByte (Fips.mul 0x0D (Fips.invSbox (x ^^^ 0x63))) ∧
      substByte Rom.SBBU Rom.SBBT (diptByte x) = diptByte (Fips.mul 0x0B (Fips.invSbox (x ^^^ 0x63))) ∧
      substByte Rom.SBEU Rom.SBET (diptByte x) = diptByte (Fips.mul 0x0E (Fips.invSbox (x ^^^ 0x63))) := by decide +kernel

/-- Settles O46: with both sides of each equation written lane by lane, it is the one on bytes. -/
theorem substitutionCoreIsTheAesSbox : Obligations.SubstitutionCoreIsTheAesSbox := by
  intro v
  simp only [outPair_subcore_eq_ofLanes, ipt_ofLanes, dipt_ofLanes, lane_ipt, lane_dipt]
  simp only [substByte_iptByte, substByte_diptByte, and_self]

end Sys2Proof.Machine
end

section
/-! How the basis changes commute with the lane moves (R132, R136, R137), and what OUT and DESKEW do after IPT (R112, R113). -/

namespace Sys2Proof.Machine

theorem ipt_xor (v w : Vec) : ipt (v ^^^ w) = ipt v ^^^ ipt w := affine_xor_of_linear basisChange_linearPairs.1 v w

theorem dipt_xor (v w : Vec) : dipt (v ^^^ w) = dipt v ^^^ dipt w := affine_xor_of_linear basisChange_linearPairs.2.1 v w

theorem iptByte_zero : iptByte 0x00 = 0x00 := by decide +kernel

theorem ipt_permute (v p : Vec) : ipt (permute v p) = permute (ipt v) p :=
  vec_ext fun j => by simp only [lane_ipt, lane_permute]

theorem ipt_rotDown (v : Vec) (k : Nat) : ipt (rotDown v k) = rotDown (ipt v) k :=
  vec_ext fun j => by simp only [lane_ipt, lane_rotDown]

theorem ipt_bcastW3 (v : Vec) : ipt (bcastW3 v) = bcastW3 (ipt v) :=
  vec_ext fun j => by simp only [lane_ipt, lane_bcastW3]

theorem ipt_shlLanes (v : Vec) (k : Nat) : ipt (shlLanes v k) = shlLanes (ipt v) k :=
  vec_ext fun j => by simp only [lane_ipt, lane_shlLanes, apply_ite iptByte, iptByte_zero]

theorem ipt_lane0 (b : Byte) : ipt (lane0 b) = lane0 (iptByte b) :=
  vec_ext fun j => by simp only [lane_ipt, lane_lane0, apply_ite iptByte, iptByte_zero]

theorem affineByte_out_iptByte : ∀ x, affineByte Rom.OUT_LO Rom.OUT_HI (iptByte x) = x := by decide +kernel

theorem affineByte_deskew_iptByte : ∀ x, affineByte Rom.DESKEW_LO Rom.DESKEW_HI (iptByte x) = diptByte x := by decide +kernel

/-- OUT inverts IPT (R112). -/
theorem affine_out_ipt (v : Vec) : affine (ipt v) Rom.OUT_LO Rom.OUT_HI = v :=
  vec_ext fun j => by rw [lane_affine_eq_affineByte, lane_ipt, affineByte_out_iptByte]

/-- DESKEW carries the encryption basis to the decryption basis (R113). -/
theorem affine_deskew_ipt (v : Vec) : affine (ipt v) Rom.DESKEW_LO Rom.DESKEW_HI = dipt v :=
  vec_ext fun j => by rw [lane_affine_eq_affineByte, lane_ipt, affineByte_deskew_iptByte, lane_dipt]

theorem ipt_bcast_63 : ipt (bcast 0x63) = Rom.S63 := by decide +kernel

theorem dipt_bcast_63 : dipt (bcast 0x63) = bcast 0xE8 := by decide +kernel

/-- The substitution of the key schedule on a vector in the internal basis is SubBytes, up to the constant that SMEAR adds
(R140). -/
theorem outPair_sb1_subcore_ipt (v : Vec) :
    outPair Rom.SB1U Rom.SB1T (subcore (ipt v)) = ipt (Fips.subBytes v) ^^^ Rom.S63 := by
  obtain ⟨-, sb1, -⟩ := substitutionCoreIsTheAesSbox v
  have offset : (ofLanes fun j => Fips.sbox (lane v j) ^^^ 0x63) = Fips.subBytes v ^^^ bcast 0x63 :=
    vec_ext fun j => by simp only [Fips.subBytes, lane_xor, lane_ofLanes, lane_bcast]
  rw [sb1, offset, ipt_xor, ipt_bcast_63]

end Sys2Proof.Machine
end


section
/-! SMEAR without its constant (R163): the running XOR of the words of a vector, written with SHL_LANES (R136). -/

namespace Sys2Proof.Machine

theorem val_laneIndex_of_lt {n : Nat} (h : n < 16) : (laneIndex n).val = n := Nat.mod_eq_of_lt h

theorem shlLanes_xor (v w : Vec) (k : Nat) : shlLanes (v ^^^ w) k = shlLanes v k ^^^ shlLanes w k :=
  vec_ext fun j => by
    simp only [lane_shlLanes, lane_xor]
    split
    · rfl
    · decide

theorem shlLanes_shlLanes (v : Vec) (a b : Nat) : shlLanes (shlLanes v a) b = shlLanes v (a + b) :=
  vec_ext fun j => by
    have inner : (laneIndex (j.val - b)).val = j.val - b := val_laneIndex_of_lt (by omega)
    simp only [lane_shlLanes, inner, Nat.sub_right_comm, Nat.sub_sub]
    by_cases hb : b ≤ j.val
    · simp only [hb, if_true, show a ≤ j.val - b ↔ a + b ≤ j.val by omega]
    · rw [if_neg hb, if_neg (by omega)]

theorem shlLanes_16 (v : Vec) : shlLanes v 16 = zero :=
  vec_ext fun j => by rw [lane_shlLanes, if_neg (by omega), lane_zero]

theorem zero_eq_ofNat_zero : zero = 0#128 := by decide

/-- The vector whose word w is the XOR of words 0..w of `v`. -/
def wordSums (v : Vec) : Vec := v ^^^ shlLanes v 4 ^^^ shlLanes (v ^^^ shlLanes v 4) 8

theorem smear_eq_wordSums_xor (v : Vec) : smear v = wordSums v ^^^ Rom.S63 := rfl

theorem wordSums_xor (v w : Vec) : wordSums (v ^^^ w) = wordSums v ^^^ wordSums w := by
  simp only [wordSums, shlLanes_xor]
  ac_rfl

/-- The sums undo the differences of consecutive words. -/
theorem wordSums_xor_shlLanes (v : Vec) : wordSums (v ^^^ shlLanes v 4) = v := by
  simp only [wordSums, shlLanes_xor, shlLanes_shlLanes, Nat.reduceAdd, shlLanes_16, zero_eq_ofNat_zero, BitVec.xor_assoc]
  simp

theorem ipt_wordSums (v : Vec) : ipt (wordSums v) = wordSums (ipt v) := by
  simp only [wordSums, ipt_xor, ipt_shlLanes]

end Sys2Proof.Machine
end

section
/-! KeyExpansion word by word (R274): the key's own words, and each later word from the two words it is made of. -/

namespace Sys2Proof.Machine.Fips

/-! ### The words as KeyExpansion lists them -/

theorem length_expandFrom (nk : Nat) (ws : List Quad) (n : Nat) : (expandFrom nk ws n).length = ws.length + n := by
  induction n generalizing ws with
  | zero => rfl
  | succ n ih => rw [expandFrom, ih, List.length_append, List.length_singleton, Nat.add_assoc, Nat.add_comm 1]

/-- KeyExpansion appends to the words it has. -/
theorem expandFrom_eq_append (nk : Nat) (ws : List Quad) (n : Nat) : ∃ added, expandFrom nk ws n = ws ++ added := by
  induction n generalizing ws with
  | zero => exact ⟨[], (List.append_nil ws).symm⟩
  | succ n ih =>
    obtain ⟨added, eq⟩ := ih (ws ++ [nextWord nk ws])
    exact ⟨[nextWord nk ws] ++ added, by rw [expandFrom, eq, List.append_assoc]⟩

theorem getD_expandFrom_of_lt {nk : Nat} {ws : List Quad} {i : Nat} (h : i < ws.length) (n : Nat) (d : Quad) :
    (expandFrom nk ws n).getD i d = ws.getD i d := by
  obtain ⟨added, eq⟩ := expandFrom_eq_append nk ws n
  rw [eq, List.getD_append _ _ _ _ h]

/-- Each word that KeyExpansion appends is the next word after the words before it. -/
theorem getD_expandFrom_of_le {nk : Nat} {ws : List Quad} {n i : Nat} (h : ws.length ≤ i) (hn : i < ws.length + n)
    (d : Quad) :
    (expandFrom nk ws n).getD i d = nextWord nk ((expandFrom nk ws n).take i) := by
  induction n generalizing ws with
  | zero => omega
  | succ n ih =>
    rw [expandFrom]
    rcases Nat.eq_or_lt_of_le h with rfl | h
    · obtain ⟨added, eq⟩ := expandFrom_eq_append nk (ws ++ [nextWord nk ws]) n
      simp [eq]
    · exact ih (by simpa using h) (by simp; omega)

/-! ### The words by their number -/

/-- Word `i` of the key expansion. -/
def expandedWord (key : List Byte) (i : Nat) : Quad := (keyExpansion key).getD i ⟨0, 0, 0, 0⟩

/-- What KeyExpansion adds to w[i − Nk], made from the word `w` before word `i`. -/
def addend (nk i : Nat) (w : Quad) : Quad :=
  if i % nk = 0 then (subWord (rotWord w)).xor ⟨rcon (i / nk), 0, 0, 0⟩
  else if nk = 8 ∧ i % 8 = 4 then subWord w
  else w

theorem nextWord_eq (nk : Nat) (ws : List Quad) :
    nextWord nk ws =
      (ws.getD (ws.length - nk) ⟨0, 0, 0, 0⟩).xor (addend nk ws.length (ws.getD (ws.length - 1) ⟨0, 0, 0, 0⟩)) := rfl

theorem expandedWord_of_lt {key : List Byte} {i : Nat} (h : i < nk key) : expandedWord key i = keyWord key i := by
  rw [expandedWord, keyExpansion, getD_expandFrom_of_lt (by simpa using h)]
  simp [h]

theorem expandedWord_of_le {key : List Byte} {i : Nat} (pos : 0 < nk key) (h : nk key ≤ i) (hi : i < 4 * (nr key + 1)) :
    expandedWord key i = (expandedWord key (i - nk key)).xor (addend (nk key) i (expandedWord key (i - 1))) := by
  have size : nk key + (4 * (nr key + 1) - nk key) = 4 * (nr key + 1) := by omega
  have count : ((keyExpansion key).take i).length = i := by
    rw [List.length_take, keyExpansion, length_expandFrom, List.length_map, List.length_range, size, Nat.min_eq_left hi.le]
  have before : ∀ k, k < i → ((keyExpansion key).take i).getD k ⟨0, 0, 0, 0⟩ = expandedWord key k := fun k hk => by
    rw [expandedWord, List.getD_eq_getElem?_getD, List.getElem?_take_of_lt hk, List.getD_eq_getElem?_getD]
  calc expandedWord key i = nextWord (nk key) ((keyExpansion key).take i) :=
        getD_expandFrom_of_le (by simpa using h) (by simpa [size] using hi) _
    _ = _ := by rw [nextWord_eq, count, before _ (by omega), before _ (by omega)]

/-! ### The bytes of a word -/

/-- Byte `b mod 4` of a word. -/
def Quad.byte (q : Quad) (b : Nat) : Byte :=
  match b % 4 with
  | 0 => q.b0
  | 1 => q.b1
  | 2 => q.b2
  | _ => q.b3

theorem byte_mod (q : Quad) (b : Nat) : q.byte (b % 4) = q.byte b := by
  rw [Quad.byte, Nat.mod_mod, Quad.byte]

theorem byte_laneIndex (q : Quad) (n : Nat) : q.byte (laneIndex n).val = q.byte n := by
  rw [← byte_mod, laneIndex, Nat.mod_mod_of_dvd n (by decide), byte_mod]

theorem byte_sub_four (q : Quad) {b : Nat} (h : 4 ≤ b) : q.byte (b - 4) = q.byte b := by
  rw [← byte_mod, ← Nat.mod_eq_sub_mod h, byte_mod]

theorem byte_xor (x y : Quad) (b : Nat) : (x.xor y).byte b = x.byte b ^^^ y.byte b := by
  unfold Quad.byte
  split <;> rfl

theorem byte_subWord (x : Quad) (b : Nat) : (subWord x).byte b = sbox (x.byte b) := by
  unfold Quad.byte
  split <;> rfl

theorem byte_rotWord (x : Quad) (b : Nat) : (rotWord x).byte b = x.byte (b + 1) := by
  rcases (by omega : b % 4 = 0 ∨ b % 4 = 1 ∨ b % 4 = 2 ∨ b % 4 = 3) with h | h | h | h <;>
    simp [Quad.byte, rotWord, Nat.add_mod, h]

/-- Lane `4k + b` of round key w_r is byte `b` of word `4r + k`. -/
theorem lane_roundKey (key : List Byte) (r : Nat) (j : Fin 16) :
    lane (roundKey key r) j = (expandedWord key (4 * r + j.val / 4)).byte j.val := by
  rw [roundKey, roundKeyOf, lane_ofBytes]
  fin_cases j <;> rfl

/-- The vector with one word in all four places. -/
def inEveryWord (q : Quad) : Vec := ofLanes fun j => q.byte j.val

theorem lane_inEveryWord (q : Quad) (j : Fin 16) : lane (inEveryWord q) j = q.byte j.val := lane_ofLanes _ j

theorem inEveryWord_xor (x y : Quad) : inEveryWord (x.xor y) = inEveryWord x ^^^ inEveryWord y :=
  vec_ext fun j => by simp only [lane_inEveryWord, lane_xor, byte_xor]

theorem inEveryWord_subWord (q : Quad) : inEveryWord (subWord q) = subBytes (inEveryWord q) :=
  vec_ext fun j => by simp only [subBytes, lane_ofLanes, lane_inEveryWord, byte_subWord]

theorem inEveryWord_rotWord (q : Quad) : inEveryWord (rotWord q) = rotDown (inEveryWord q) 1 :=
  vec_ext fun j => by rw [lane_rotDown, lane_inEveryWord, lane_inEveryWord, byte_rotWord, byte_laneIndex]

theorem bcastW3_roundKey (key : List Byte) (r : Nat) : bcastW3 (roundKey key r) = inEveryWord (expandedWord key (4 * r + 3)) :=
  vec_ext fun j => by
    have word : (12 + j.val % 4) / 4 = 3 := by omega
    have place : (12 + j.val % 4) % 4 = j.val % 4 := by omega
    rw [lane_bcastW3, lane_roundKey, lane_inEveryWord, val_laneIndex_of_lt (by omega), word, ← byte_mod, place, byte_mod]

end Sys2Proof.Machine.Fips
end

section
/-! Round keys from round keys (R274): four words at a time. -/

namespace Sys2Proof.Machine.Fips

theorem byte_keyWord (key : List Byte) (i b : Nat) : (keyWord key i).byte b = key.getD (4 * i + b % 4) 0 := by
  rcases (by omega : b % 4 = 0 ∨ b % 4 = 1 ∨ b % 4 = 2 ∨ b % 4 = 3) with h | h | h | h <;> rw [Quad.byte, h] <;> rfl

/-- The first round keys are the key itself. -/
theorem roundKey_of_key {key : List Byte} {r : Nat} (h : 4 * r + 4 ≤ nk key) :
    roundKey key r = ofBytes ((key.drop (16 * r)).take 16) :=
  vec_ext fun j => by
    have place : 4 * (4 * r + j.val / 4) + j.val % 4 = 16 * r + j.val := by omega
    rw [lane_roundKey, expandedWord_of_lt (by omega), byte_keyWord, place, lane_ofBytes]
    simp only [List.getD_eq_getElem?_getD, List.getElem?_take_of_lt j.isLt, List.getElem?_drop]

/-- A word that does not begin a round key adds the word before it as it is. -/
theorem addend_of_mod_four_ne {m i : Nat} (h : i % 4 ≠ 0) (w : Quad) : addend (4 * m) i w = w := by
  have inside : ¬ i % (4 * m) = 0 := fun h0 => h <| by rw [← Nat.mod_mod_of_dvd i (Dvd.intro m rfl), h0]
  have notMiddle : ¬ (4 * m = 8 ∧ i % 8 = 4) := by omega
  rw [addend, if_neg inside, if_neg notMiddle]

/-- A vector whose words each add the word before them, and the first one `w`, is `w` in every word and the running sums. -/
theorem eq_inEveryWord_xor_wordSums {n p : Vec} {w : Quad}
    (first : ∀ j : Fin 16, j.val < 4 → lane n j = lane p j ^^^ w.byte j.val)
    (later : ∀ j : Fin 16, 4 ≤ j.val → lane n j = lane p j ^^^ lane n (laneIndex (j.val - 4))) :
    n = inEveryWord w ^^^ wordSums p := by
  have differences : n ^^^ inEveryWord w ^^^ shlLanes (n ^^^ inEveryWord w) 4 = p := vec_ext fun j => by
    simp only [lane_xor, lane_shlLanes, lane_inEveryWord]
    by_cases h : 4 ≤ j.val
    · rw [if_pos h, later j h, byte_laneIndex, byte_sub_four w h, BitVec.xor_assoc (lane p j), BitVec.xor_assoc,
        BitVec.xor_self, BitVec.xor_zero]
    · rw [if_neg h, first j (by omega), BitVec.xor_assoc (lane p j), BitVec.xor_self, BitVec.xor_zero]
      exact BitVec.xor_zero
  rw [← differences, wordSums_xor_shlLanes, BitVec.xor_comm n, ← BitVec.xor_assoc, BitVec.xor_self, BitVec.zero_xor]

section
variable {key : List Byte} {m q : Nat} (pos : 0 < m) (hm : nk key = 4 * m) (hq : q + m ≤ nr key)
include pos hm hq

theorem expandedWord_roundKey_add {k : Nat} (hk : k < 4) :
    expandedWord key (4 * (q + m) + k) =
      (expandedWord key (4 * q + k)).xor (addend (4 * m) (4 * (q + m) + k) (expandedWord key (4 * (q + m) + k - 1))) := by
  have before : 4 * (q + m) + k - nk key = 4 * q + k := by omega
  rw [expandedWord_of_le (by omega) (by omega) (by omega), before, hm]

theorem lane_roundKey_add_of_lt {j : Fin 16} (first : j.val < 4) :
    lane (roundKey key (q + m)) j =
      lane (roundKey key q) j ^^^ (addend (4 * m) (4 * (q + m)) (expandedWord key (4 * (q + m) - 1))).byte j.val := by
  rw [lane_roundKey, lane_roundKey, Nat.div_eq_of_lt first, expandedWord_roundKey_add pos hm hq (by decide), byte_xor]
  rfl

theorem lane_roundKey_add_of_le {j : Fin 16} (later : 4 ≤ j.val) :
    lane (roundKey key (q + m)) j = lane (roundKey key q) j ^^^ lane (roundKey key (q + m)) (laneIndex (j.val - 4)) := by
  have wordBefore : 4 * (q + m) + j.val / 4 - 1 = 4 * (q + m) + (j.val - 4) / 4 := by omega
  rw [lane_roundKey, lane_roundKey, lane_roundKey, expandedWord_roundKey_add pos hm hq (by omega), byte_xor,
    addend_of_mod_four_ne (by omega), wordBefore, val_laneIndex_of_lt (by omega), byte_sub_four _ later]

/-- Round key `q` + Nk/4 from round key `q`: each of its words adds the word before it, and the first one the addend. -/
theorem roundKey_add :
    roundKey key (q + m) =
      inEveryWord (addend (4 * m) (4 * (q + m)) (expandedWord key (4 * (q + m) - 1))) ^^^ wordSums (roundKey key q) :=
  eq_inEveryWord_xor_wordSums (fun _ => lane_roundKey_add_of_lt pos hm hq) fun _ => lane_roundKey_add_of_le pos hm hq

end

theorem inEveryWord_first_byte (c : Byte) : inEveryWord ⟨c, 0, 0, 0⟩ = wordSums (lane0 c) := by
  have differences : lane0 c = inEveryWord ⟨c, 0, 0, 0⟩ ^^^ shlLanes (inEveryWord ⟨c, 0, 0, 0⟩) 4 :=
    vec_ext fun j => by
      simp only [lane_lane0, lane_xor, lane_shlLanes, lane_inEveryWord]
      fin_cases j <;> simp [Quad.byte, laneIndex]
  rw [differences, wordSums_xor_shlLanes]

/-- A round key that begins at word n·Nk comes from the round key before by rotation and substitution, and from round key `q`
with round constant `n` added. -/
theorem roundKey_of_rotWord {key : List Byte} {m q : Nat} (pos : 0 < m) (hm : nk key = 4 * m) (hq : q + m ≤ nr key)
    {n : Nat} (multiple : q + m = n * m) :
    roundKey key (q + m) =
      subBytes (rotDown (bcastW3 (roundKey key (q + m - 1))) 1) ^^^ wordSums (roundKey key q ^^^ lane0 (rcon n)) := by
  have boundary : 4 * (q + m) % (4 * m) = 0 := by rw [multiple, Nat.mul_mod_mul_left, Nat.mul_mod_left]
  have count : 4 * (q + m) / (4 * m) = n := by
    rw [multiple, Nat.mul_div_mul_left _ _ (by decide), Nat.mul_div_cancel _ pos]
  have last : 4 * (q + m) - 1 = 4 * (q + m - 1) + 3 := by omega
  rw [roundKey_add pos hm hq, addend, if_pos boundary, count, last, inEveryWord_xor, inEveryWord_subWord, inEveryWord_rotWord,
    ← bcastW3_roundKey, inEveryWord_first_byte, wordSums_xor]
  ac_rfl

/-- In AES-256 an odd round key after w_1 comes from the round key before by substitution alone. -/
theorem roundKey_of_subWord {key : List Byte} {q : Nat} (hk : nk key = 8) (odd : q % 2 = 1) (hq : q + 2 ≤ nr key) :
    roundKey key (q + 2) = subBytes (bcastW3 (roundKey key (q + 1))) ^^^ wordSums (roundKey key q) := by
  have last : 4 * (q + 2) - 1 = 4 * (q + 1) + 3 := by omega
  have inside : ¬ 4 * (q + 2) % (4 * 2) = 0 := by omega
  have middle : 4 * 2 = 8 ∧ 4 * (q + 2) % 8 = 4 := by omega
  rw [roundKey_add (m := 2) (by decide) hk hq, addend, if_neg inside, if_pos middle, last, inEveryWord_subWord,
    ← bcastW3_roundKey]

end Sys2Proof.Machine.Fips
end

section
/-! The last transforms of a schedule on key material in the internal basis (R173). -/

namespace Sys2Proof.Machine

theorem mangleLastEnc_ipt (v : Vec) (s : Nat) : mangleLastEnc (ipt v) s = permute v (Rom.SR s) ^^^ bcast 0x63 := by
  rw [mangleLastEnc, ← ipt_permute, ← ipt_bcast_63, ← ipt_xor, affine_out_ipt]

theorem mangleLastDec_ipt (v : Vec) : mangleLastDec (ipt v) = dipt v ^^^ bcast 0xE8 := by
  rw [mangleLastDec, ← ipt_bcast_63, ← ipt_xor, affine_deskew_ipt, dipt_xor, dipt_bcast_63]

end Sys2Proof.Machine
end

section
/-! One round of the schedule in the internal basis (R161 to R163). -/

namespace Sys2Proof.Machine

/-- A schedule round on key material in the internal basis is the round on the round keys themselves: the two constants 0x5B
cancel. -/
theorem outPair_subcore_xor_smear_ipt (t p : Vec) :
    outPair Rom.SB1U Rom.SB1T (subcore (ipt t)) ^^^ smear (ipt p) = ipt (Fips.subBytes t ^^^ wordSums p) := by
  rw [outPair_sb1_subcore_ipt, smear_eq_wordSums_xor, ipt_xor, ipt_wordSums, BitVec.xor_assoc, BitVec.xor_comm (wordSums _),
    ← BitVec.xor_assoc Rom.S63, BitVec.xor_self, BitVec.zero_xor]

/-- R162 in the internal basis. -/
theorem schedRoundLow_ipt (kw kp : Vec) : schedRoundLow (ipt kw) (ipt kp) = ipt (Fips.subBytes kw ^^^ wordSums kp) :=
  outPair_subcore_xor_smear_ipt kw kp

/-- R161 in the internal basis, for a carrier that delivers the constant `c`. -/
theorem schedRoundRc_ipt {rc : Vec} {c : Byte} (h : lane rc 15 = iptByte c) (kw kp : Vec) :
    schedRoundRc rc (ipt kw) (ipt kp) =
      (rotUp rc 1, ipt (Fips.subBytes (rotDown (bcastW3 kw) 1) ^^^ wordSums (kp ^^^ lane0 c))) := by
  rw [schedRoundRc, h, ← ipt_bcastW3, ← ipt_rotDown, ← ipt_lane0, ← ipt_xor, outPair_subcore_xor_smear_ipt]

end Sys2Proof.Machine
end

section
/-! The round-constant carrier (R118, R175). -/

namespace Sys2Proof.Machine

/-- The carrier after `n` consumptions. -/
def carrier (n : Nat) : Vec := (fun rc => rotUp rc 1)^[n] Rom.RCON_INIT

theorem carrier_succ (n : Nat) : carrier (n + 1) = rotUp (carrier n) 1 := Function.iterate_succ_apply' _ _ _

theorem lane_carrier : ∀ n : Fin 10, lane (carrier n.val) 15 = iptByte (Fips.rcon (n.val + 1)) := by decide +kernel

/-- Consumption `n` + 1 gives the key material of round `q` + `m` from that of the rounds `q` + `m` − 1 and `q` (R161,
R172). -/
theorem schedRoundRc_roundKey {key : List Byte} {m q n : Nat} (pos : 0 < m) (hm : Fips.nk key = 4 * m)
    (hq : q + m ≤ Fips.nr key) (hn : n < 10) (multiple : q + m = (n + 1) * m) :
    schedRoundRc (carrier n) (ipt (Fips.roundKey key (q + m - 1))) (ipt (Fips.roundKey key q)) =
      (carrier (n + 1), ipt (Fips.roundKey key (q + m))) := by
  rw [schedRoundRc_ipt (lane_carrier ⟨n, hn⟩), ← Fips.roundKey_of_rotWord pos hm hq multiple, carrier_succ]

/-- The odd step of AES-256 (R162, R172). -/
theorem schedRoundLow_roundKey {key : List Byte} {q : Nat} (hk : Fips.nk key = 8) (odd : q % 2 = 1)
    (hq : q + 2 ≤ Fips.nr key) :
    schedRoundLow (bcastW3 (ipt (Fips.roundKey key (q + 1)))) (ipt (Fips.roundKey key q)) =
      ipt (Fips.roundKey key (q + 2)) := by
  rw [← ipt_bcastW3, schedRoundLow_ipt, ← Fips.roundKey_of_subWord hk odd hq]

end Sys2Proof.Machine
end

section
/-! The staged round-key files (R168 to R170): what their slots hold when the schedule has run to a round. -/

namespace Sys2Proof.Machine

theorem slot_setSlot_same (k : RoundKeys) {j : Nat} (v : Vec) (h : j < 15) : slot (setSlot k j v) j = v := by
  simp [slot, setSlot, h]

theorem slot_setSlot_of_ne (k : RoundKeys) {i j : Nat} (v : Vec) (h : i ≠ j) : slot (setSlot k i v) j = slot k j := by
  simp [slot, setSlot, h]

/-- The files of a schedule of `nr` rounds for `key` hold the keys of the rounds 0..n, in the closed forms of R173. -/
structure Staged (key : List Byte) (nr n : Nat) (ek dk : RoundKeys) : Prop where
  ek_first : slot ek 0 = ipt (Fips.roundKey key 0)
  dk_last : slot dk nr = permute (Fips.roundKey key 0) (Rom.SR 2)
  ek_middle : ∀ r, 1 ≤ r → r ≤ n → slot ek r = mangleEnc (ipt (Fips.roundKey key r)) (negMod4 r)
  dk_middle : ∀ r, 1 ≤ r → r ≤ n → slot dk (nr - r) = mangleDec (ipt (Fips.roundKey key r)) ((nr - r) % 4)

theorem staged_zero (key : List Byte) {nr : Nat} (h : nr < 15) :
    Staged key nr 0 (setSlot zeroKeys 0 (ipt (Fips.roundKey key 0)))
      (setSlot zeroKeys nr (permute (Fips.roundKey key 0) (Rom.SR 2))) where
  ek_first := slot_setSlot_same _ _ (by decide)
  dk_last := slot_setSlot_same _ _ h
  ek_middle := by omega
  dk_middle := by omega

/-- The writes of round `n` + 1 leave those of the rounds before. -/
theorem Staged.succ {key : List Byte} {nr n : Nat} {ek dk : RoundKeys} (h : Staged key nr n ek dk)
    (hn : n + 1 ≤ nr) (hnr : nr < 15) :
    Staged key nr (n + 1) (setSlot ek (n + 1) (mangleEnc (ipt (Fips.roundKey key (n + 1))) (negMod4 (n + 1))))
      (setSlot dk (nr - (n + 1)) (mangleDec (ipt (Fips.roundKey key (n + 1))) ((nr - (n + 1)) % 4))) where
  ek_first := by rw [slot_setSlot_of_ne _ _ (by omega), h.ek_first]
  dk_last := by rw [slot_setSlot_of_ne _ _ (by omega), h.dk_last]
  ek_middle r pos hr := by
    rcases Nat.eq_or_lt_of_le hr with rfl | hr
    · exact slot_setSlot_same _ _ (by omega)
    · rw [slot_setSlot_of_ne _ _ (by omega), h.ek_middle r pos (by omega)]
  dk_middle r pos hr := by
    rcases Nat.eq_or_lt_of_le hr with rfl | hr
    · exact slot_setSlot_same _ _ (by omega)
    · rw [slot_setSlot_of_ne _ _ (by omega), h.dk_middle r pos (by omega)]

/-- The last round of a schedule, from the files and the last key material (R166, R167). -/
def finishSchedule (key : List Byte) (nr : Nat) (ek dk : RoundKeys) : Schedule where
  nr := nr
  ek := setSlot ek nr (mangleLastEnc (ipt (Fips.roundKey key nr)) 2)
  dk := setSlot dk 0 (mangleLastDec (ipt (Fips.roundKey key nr)))

theorem finishSchedule_ek_of_ne (key : List Byte) {nr j : Nat} (ek dk : RoundKeys) (h : nr ≠ j) :
    slot (finishSchedule key nr ek dk).ek j = slot ek j := slot_setSlot_of_ne ek _ h

theorem finishSchedule_ek_last (key : List Byte) {nr : Nat} (ek dk : RoundKeys) (h : nr < 15) :
    slot (finishSchedule key nr ek dk).ek nr = permute (Fips.roundKey key nr) (Rom.SR 2) ^^^ bcast 0x63 :=
  (slot_setSlot_same ek _ h).trans (mangleLastEnc_ipt _ 2)

theorem finishSchedule_dk_first (key : List Byte) (nr : Nat) (ek dk : RoundKeys) :
    slot (finishSchedule key nr ek dk).dk 0 = dipt (Fips.roundKey key nr) ^^^ bcast 0xE8 :=
  (slot_setSlot_same dk _ (by decide)).trans (mangleLastDec_ipt _)

theorem finishSchedule_dk_of_ne (key : List Byte) {nr j : Nat} (ek dk : RoundKeys) (h : 0 ≠ j) :
    slot (finishSchedule key nr ek dk).dk j = slot dk j := slot_setSlot_of_ne dk _ h

end Sys2Proof.Machine
end

section
/-! KEYSCHED_128 (R169): what the working registers and the files hold after each round. -/

namespace Sys2Proof.Machine

/-- The state of KEYSCHED_128 after round `n`. -/
structure Sched128Holds (key : List Byte) (n : Nat) (w : SchedWork) : Prop where
  rc : w.rc = carrier n
  ka : w.ka = ipt (Fips.roundKey key n)
  staged : Staged key 10 n w.ek w.dk

variable {key : List Byte} (len : key.length = 16)
include len

theorem nk_of_16 : Fips.nk key = 4 := by rw [Fips.nk, len]

theorem nr_of_16 : Fips.nr key = 10 := by rw [Fips.nr, nk_of_16 len]

theorem ofBytes_of_16 : ofBytes key = Fips.roundKey key 0 := by
  rw [Fips.roundKey_of_key (by rw [nk_of_16 len]), Nat.mul_zero, List.drop_zero, List.take_of_length_le len.le]

theorem sched128Init_holds : Sched128Holds key 0 (sched128Init (ofBytes key)) := by
  rw [ofBytes_of_16 len]
  exact ⟨rfl, rfl, staged_zero key (by decide)⟩

theorem Sched128Holds.schedRoundRc_eq {n : Nat} {w : SchedWork} (h : Sched128Holds key n w) (hn : n < 10) :
    schedRoundRc w.rc w.ka w.ka = (carrier (n + 1), ipt (Fips.roundKey key (n + 1))) := by
  rw [h.rc, h.ka]
  exact schedRoundRc_roundKey (m := 1) (by decide) (nk_of_16 len) (by rw [nr_of_16 len]; omega) hn (by omega)

theorem Sched128Holds.succ {n : Nat} {w : SchedWork} (h : Sched128Holds key n w) (hn : n < 10) :
    Sched128Holds key (n + 1) (sched128Round w (n + 1)) := by
  rw [sched128Round, h.schedRoundRc_eq len hn]
  exact ⟨rfl, rfl, h.staged.succ (by omega) (by decide)⟩

theorem foldl_sched128Round_holds {n : Nat} (hn : n ≤ 10) :
    Sched128Holds key n ((List.range' 1 n).foldl sched128Round (sched128Init (ofBytes key))) := by
  induction n with
  | zero => exact sched128Init_holds len
  | succ n ih =>
    rw [List.range'_1_concat, List.foldl_append, Nat.add_comm 1]
    exact (ih (by omega)).succ len (by omega)

theorem keySched_of_16 : ∃ ek dk, Staged key 10 9 ek dk ∧ keySched key = finishSchedule key 10 ek dk := by
  have before := foldl_sched128Round_holds len (n := 9) (by decide)
  refine ⟨_, _, before.staged, ?_⟩
  rw [keySched, if_pos len, keySched128, before.schedRoundRc_eq len (by decide)]
  rfl

end Sys2Proof.Machine
end

section
/-! KEYSCHED_256 (R170): what the working registers and the files hold after each even and odd step. -/

namespace Sys2Proof.Machine

/-- The state of KEYSCHED_256 after the pass of its loop for round 2n, which does the rounds 2n and 2n + 1. -/
structure Sched256Holds (key : List Byte) (n : Nat) (w : SchedWork) : Prop where
  rc : w.rc = carrier n
  ka : w.ka = ipt (Fips.roundKey key (2 * n))
  kb : w.kb = ipt (Fips.roundKey key (2 * n + 1))
  staged : Staged key 14 (2 * n + 1) w.ek w.dk

theorem take_evenRounds_succ : ∀ n < 7, ([2, 4, 6, 8, 10, 12, 14] : List Nat).take (n + 1) =
    [2, 4, 6, 8, 10, 12, 14].take n ++ [2 * (n + 1)] := by decide

variable {key : List Byte} (len : key.length = 32)
include len

theorem nk_of_32 : Fips.nk key = 8 := by rw [Fips.nk, len]

theorem nr_of_32 : Fips.nr key = 14 := by rw [Fips.nr, nk_of_32 len]

theorem ofBytes_take_of_32 : ofBytes (key.take 16) = Fips.roundKey key 0 := by
  rw [Fips.roundKey_of_key (by rw [nk_of_32 len]; decide), Nat.mul_zero, List.drop_zero]

theorem ofBytes_drop_of_32 : ofBytes (key.drop 16) = Fips.roundKey key 1 := by
  rw [Fips.roundKey_of_key (by rw [nk_of_32 len]), Nat.mul_one, List.take_of_length_le (by simp [len])]

theorem sched256Init_holds : Sched256Holds key 0 (sched256Init (ofBytes (key.take 16)) (ofBytes (key.drop 16))) := by
  rw [ofBytes_take_of_32 len, ofBytes_drop_of_32 len]
  exact ⟨rfl, rfl, rfl, (staged_zero key (by decide)).succ (by decide) (by decide)⟩

theorem Sched256Holds.schedRoundRc_eq {n : Nat} {w : SchedWork} (h : Sched256Holds key n w) (hn : n < 7) :
    schedRoundRc w.rc w.kb w.ka = (carrier (n + 1), ipt (Fips.roundKey key (2 * (n + 1)))) := by
  rw [h.rc, h.ka, h.kb]
  exact schedRoundRc_roundKey (m := 2) (by decide) (nk_of_32 len) (by rw [nr_of_32 len]; omega) (by omega) (by omega)

/-- KA after an even step, the one of round 14 among them. -/
theorem Sched256Holds.ka_sched256Round {n : Nat} {w : SchedWork} (h : Sched256Holds key n w) (hn : n < 7) (r : Nat) :
    (sched256Round w r).ka = ipt (Fips.roundKey key (2 * (n + 1))) := by
  rw [sched256Round, h.schedRoundRc_eq len hn]

theorem Sched256Holds.schedRoundLow_eq {n : Nat} {w : SchedWork} (h : Sched256Holds key n w) (hn : n < 6) :
    schedRoundLow (bcastW3 (ipt (Fips.roundKey key (2 * (n + 1))))) w.kb = ipt (Fips.roundKey key (2 * (n + 1) + 1)) := by
  rw [h.kb]
  exact schedRoundLow_roundKey (q := 2 * n + 1) (nk_of_32 len) (by omega) (by rw [nr_of_32 len]; omega)

theorem Sched256Holds.succ {n : Nat} {w : SchedWork} (h : Sched256Holds key n w) (hn : n < 6) :
    Sched256Holds key (n + 1) (sched256Round w (2 * (n + 1))) := by
  have evenStep := h.staged.succ (by omega) (by decide)
  have oddStep := evenStep.succ (by omega) (by decide)
  have index : 13 - 2 * (n + 1) = 14 - (2 * (n + 1) + 1) := by omega
  rw [sched256Round, h.schedRoundRc_eq len (by omega), index]
  simp only [h.schedRoundLow_eq len hn]
  exact ⟨rfl, rfl, rfl, oddStep⟩

theorem foldl_sched256Round_holds {n : Nat} (hn : n ≤ 6) :
    Sched256Holds key n (([2, 4, 6, 8, 10, 12, 14].take n).foldl sched256Round
      (sched256Init (ofBytes (key.take 16)) (ofBytes (key.drop 16)))) := by
  induction n with
  | zero => exact sched256Init_holds len
  | succ n ih =>
    rw [take_evenRounds_succ n (by omega), List.foldl_append]
    exact (ih (by omega)).succ len (by omega)

theorem keySched_of_32 : ∃ ek dk, Staged key 14 13 ek dk ∧ keySched key = finishSchedule key 14 ek dk := by
  have before : Sched256Holds key 6 ([2, 4, 6, 8, 10, 12].foldl sched256Round _) := foldl_sched256Round_holds len le_rfl
  refine ⟨_, _, before.staged, ?_⟩
  rw [keySched, if_neg (by rw [len]; decide), keySched256, before.schedRoundRc_eq len (by decide)]
  rfl

end Sys2Proof.Machine
end

section
/-! The statements about the key schedule (R172, R173). -/

namespace Sys2Proof.Machine

/-- Settles O53: the invariant of each schedule, and for the last even step of AES-256, which is past its loop, that step
alone. -/
theorem keyMaterialIsTheRoundKeyInTheInternalBasis : Obligations.KeyMaterialIsTheRoundKeyInTheInternalBasis := by
  refine ⟨fun key r len hr => (foldl_sched128Round_holds len hr).ka, fun key n len hn => ?_⟩
  rcases Nat.eq_or_lt_of_le hn with rfl | hn
  · have before := foldl_sched256Round_holds len (n := 6) le_rfl
    exact ⟨before.ka_sched256Round len (by decide) 14, by omega⟩
  · have holds := foldl_sched256Round_holds len (n := n) (by omega)
    exact ⟨holds.ka, fun _ => holds.kb⟩

/-- A schedule fills the slots of the rounds before the last, then does the last round. -/
theorem keySched_eq_finishSchedule {key : List Byte} (h : AesKey key) :
    ∃ ek dk, Staged key (Fips.nr key) (Fips.nr key - 1) ek dk ∧ keySched key = finishSchedule key (Fips.nr key) ek dk := by
  rcases h with len | len
  · rw [nr_of_16 len]
    exact keySched_of_16 len
  · rw [nr_of_32 len]
    exact keySched_of_32 len

theorem nr_bounds {key : List Byte} (h : AesKey key) : 1 ≤ Fips.nr key ∧ Fips.nr key < 15 := by
  rcases h with len | len
  · rw [nr_of_16 len]
    decide
  · rw [nr_of_32 len]
    decide

/-- Settles O54: the slots that the last round does not write are those staged before it, and the two it writes hold the last
round key in the plain and in the decryption basis; OUT takes EK[0] back to the raw key. -/
theorem storedKeysHaveTheirClosedForms : Obligations.StoredKeysHaveTheirClosedForms := by
  intro key h
  obtain ⟨ek, dk, staged, eq⟩ := keySched_eq_finishSchedule h
  obtain ⟨pos, le⟩ := nr_bounds h
  have nr : (keySched key).nr = Fips.nr key := by rw [eq, finishSchedule]
  have ekFirst : slot (keySched key).ek 0 = ipt (Fips.roundKey key 0) := by
    rw [eq, finishSchedule_ek_of_ne _ _ _ (by omega), staged.ek_first]
  have dkLast : slot (keySched key).dk (Fips.nr key) = permute (Fips.roundKey key 0) (Rom.SR 2) := by
    rw [eq, finishSchedule_dk_of_ne _ _ _ (by omega), staged.dk_last]
  simp only [nr]
  refine ⟨trivial, ekFirst, fun r first before => ⟨?ekMiddle, ?dkMiddle⟩, ?ekLast, ?dkFirst, dkLast, ?outermost⟩
  case ekMiddle => rw [eq, finishSchedule_ek_of_ne _ _ _ (by omega), staged.ek_middle r first (by omega)]
  case dkMiddle => rw [eq, finishSchedule_dk_of_ne _ _ _ (by omega), staged.dk_middle r first (by omega)]
  case ekLast => rw [eq, finishSchedule_ek_last _ _ _ le]
  case dkFirst => rw [eq, finishSchedule_dk_first]
  case outermost => rw [dkLast, ekFirst, affine_out_ipt]

end Sys2Proof.Machine
end

section
/-! The row-shift selector of decryption (R207, R208). -/

namespace Sys2Proof.Machine

theorem xor_three_and_three (m : Nat) : (m ^^^ 3) &&& 3 = 3 - m % 4 := by
  have low : m &&& 3 = m % 4 := Nat.and_two_pow_sub_one_eq_mod m 2
  have complement : ∀ k < 4, k ^^^ 3 = 3 - k := by decide
  rw [Nat.and_xor_distrib_right, low, Nat.and_self, complement _ (Nat.mod_lt m (by decide))]

/-- The selector takes two bits of Nr − 1, shifted left by 4, and complements them. -/
theorem whichSr_eq_sub_mod (nr : Nat) : whichSr nr = 3 - (nr - 1) % 4 := by
  have shifted : (((nr - 1) <<< 4) ^^^ 48) &&& 48 = (((nr - 1) ^^^ 3) &&& 3) <<< 4 := by
    rw [Nat.shiftLeft_and_distrib, Nat.shiftLeft_xor_distrib]
    rfl
  rw [whichSr, shifted, Nat.shiftLeft_eq, Nat.mul_div_cancel _ (by decide), xor_three_and_three]

/-- Settles O49: the first closed form is the complement of two bits of Nr − 1, and the second is linear arithmetic from it. -/
theorem rowShiftSelectorClosedForm : Obligations.RowShiftSelectorClosedForm := by
  refine ⟨fun nr pos => ⟨whichSr_eq_sub_mod nr, ?_⟩, by decide⟩
  rw [whichSr_eq_sub_mod]
  omega

end Sys2Proof.Machine
end

section
/-! The rotating table of decryption (R206): the index it has in each round, and one round of both transforms as a step of the
fold. -/

namespace Sys2Proof.Machine

theorem negMod4_lt (r : Nat) : negMod4 r < 4 := Nat.mod_lt _ (by decide)

theorem negMod4_succ (r : Nat) : (negMod4 r + 3) % 4 = negMod4 (r + 1) := by
  rw [negMod4, negMod4]
  omega

theorem negMod4_negMod4 (r : Nat) : negMod4 (negMod4 r) = r % 4 := by
  rw [negMod4, negMod4]
  omega

theorem toNat_neg_emod_four (r : Nat) : ((-(r : Int)) % 4).toNat = negMod4 r := by
  rw [negMod4]
  omega

/-- Four lanes are one column, so the rotation takes a table of the forward family to the one before it (R115). -/
theorem rotUp_mcf : ∀ k < 4, rotUp (Rom.MCF k) 4 = Rom.MCF ((k + 3) % 4) := by decide +kernel

theorem encMiddle_succ (b : Vec) (ek : RoundKeys) (n : Nat) :
    encMiddle b ek (n + 1) = encRound ek (encMiddle b ek n) (n + 1) := by
  rw [encMiddle, List.range'_1_concat, List.foldl_append, Nat.add_comm 1]
  rfl

theorem decMiddle_succ (b : Vec) (dk : RoundKeys) (n : Nat) :
    decMiddle b dk (n + 1) = decRound dk (decMiddle b dk n) (n + 1) := by
  rw [decMiddle, List.range'_1_concat, List.foldl_append, Nat.add_comm 1]
  rfl

theorem decRound_snd (dk : RoundKeys) (s : Vec × Vec) (r : Nat) : (decRound dk s r).2 = rotUp s.2 4 := rfl

theorem decMiddle_snd (b : Vec) (dk : RoundKeys) (n : Nat) : (decMiddle b dk n).2 = Rom.MCF (negMod4 (n + 1)) := by
  induction n with
  | zero => rfl
  | succ n ih => rw [decMiddle_succ, decRound_snd, ih, rotUp_mcf _ (negMod4_lt _), negMod4_succ]

/-- Settles O50: each round rotates the table once more. -/
theorem rotatingTableHoldsMcf : Obligations.RotatingTableHoldsMcf := by
  intro b dk n
  have index : ((-((n : Int) + 1)) % 4).toNat = negMod4 (n + 1) := toNat_neg_emod_four (n + 1)
  rw [decMiddle_snd, index]

end Sys2Proof.Machine
end

section
/-! Multiplication in GF(2^8) (R273) adds in its second factor: each set bit of it adds one power of two times the first. -/

namespace Sys2Proof.Machine.Fips

/-- With the other laws of XOR, this lets `simp` sort a sum and drop what occurs twice in it. -/
theorem xor_left_comm (x y z : Byte) : x ^^^ (y ^^^ z) = y ^^^ (x ^^^ z) := by ac_rfl

/-- One bit of the second factor of `mul`: the sum so far and 0x02^i·a. -/
def mulBit (b : Byte) (acc : Byte × Byte) (i : Nat) : Byte × Byte :=
  (if b.getLsbD i then acc.1 ^^^ acc.2 else acc.1, xtime acc.2)

theorem mul_eq_foldl_mulBit (a b : Byte) : mul a b = ((List.range 8).foldl (mulBit b) (0, a)).1 := rfl

/-- Where the bit is set in both `x` and `y`, the power of two times `a` is added twice. -/
theorem mulBit_xor (x y p q a : Byte) (i : Nat) :
    mulBit (x ^^^ y) (p ^^^ q, a) i = ((mulBit x (p, a) i).1 ^^^ (mulBit y (q, a) i).1, xtime a) := by
  rw [mulBit, mulBit, mulBit, BitVec.getLsbD_xor]
  cases x.getLsbD i <;> cases y.getLsbD i <;> simp [BitVec.xor_assoc, BitVec.xor_comm, xor_left_comm]

theorem foldl_mulBit_xor (x y p q a : Byte) (l : List Nat) :
    (l.foldl (mulBit (x ^^^ y)) (p ^^^ q, a)).1 = (l.foldl (mulBit x) (p, a)).1 ^^^ (l.foldl (mulBit y) (q, a)).1 := by
  induction l generalizing p q a with
  | nil => rfl
  | cons i l ih =>
    rw [List.foldl_cons, mulBit_xor, ih]
    rfl

theorem mul_xor (a x y : Byte) : mul a (x ^^^ y) = mul a x ^^^ mul a y :=
  foldl_mulBit_xor x y 0 0 a (List.range 8)

/-- The factors of MixColumns and InvMixColumns as sums of powers of two (R273). -/
theorem mul_eq_xtime (x : Byte) :
    mul 0x02 x = xtime x ∧ mul 0x03 x = xtime x ^^^ x ∧ mul 0x09 x = xtime (xtime (xtime x)) ^^^ x ∧
      mul 0x0B x = xtime (xtime (xtime x)) ^^^ xtime x ^^^ x ∧
      mul 0x0D x = xtime (xtime (xtime x)) ^^^ xtime (xtime x) ^^^ x ∧
      mul 0x0E x = xtime (xtime (xtime x)) ^^^ xtime (xtime x) ^^^ xtime x := by
  revert x
  decide +kernel

theorem mul_three (x : Byte) : mul 0x03 x = mul 0x02 x ^^^ x := by
  obtain ⟨two, three, -⟩ := mul_eq_xtime x
  rw [three, two]

theorem xtime_xor (x y : Byte) : xtime (x ^^^ y) = xtime x ^^^ xtime y := by
  simpa only [mul_eq_xtime] using mul_xor 0x02 x y

end Sys2Proof.Machine.Fips
end

section
/-! MixColumns and InvMixColumns (R277) cell by cell. -/

namespace Sys2Proof.Machine.Fips

theorem lane_eq_cell (s : Vec) (j : Fin 16) : lane s j = cell s (j.val % 4) (j.val / 4) := by
  have place : 4 * (j.val / 4 % 4) + j.val % 4 % 4 = j.val := by omega
  rw [cell, place, laneIndex_val]

theorem eq_of_cells {s t : Vec} (h : ∀ r c, cell s r c = cell t r c) : s = t :=
  vec_ext fun j => by rw [lane_eq_cell, lane_eq_cell, h]

theorem cell_congr (s : Vec) {r r' c c' : Nat} (hr : r % 4 = r' % 4) (hc : c % 4 = c' % 4) : cell s r c = cell s r' c' := by
  rw [cell, cell, hr, hc]

theorem cell_add_four (s : Vec) (r c : Nat) : cell s (r + 4) c = cell s r c := cell_congr s (Nat.add_mod_right r 4) rfl

theorem cell_mod (s : Vec) (r c : Nat) : cell s (r % 4) (c % 4) = cell s r c := cell_congr s (Nat.mod_mod r 4) (Nat.mod_mod c 4)

theorem cell_mod_add (s : Vec) (r n c : Nat) : cell s (r % 4 + n) (c % 4) = cell s (r + n) c :=
  cell_congr s (Nat.mod_add_mod r 4 n) (Nat.mod_mod c 4)

theorem cell_xor (s t : Vec) (r c : Nat) : cell (s ^^^ t) r c = cell s r c ^^^ cell t r c := lane_xor s t _

theorem cell_bcast (b : Byte) (r c : Nat) : cell (bcast b) r c = b := lane_bcast b _

theorem cell_mulLanes (m : Byte) (s : Vec) (r c : Nat) : cell (mulLanes m s) r c = mul m (cell s r c) := lane_mulLanes m s _

theorem cell_ofCells (f : Nat → Nat → Byte) (r c : Nat) : cell (ofCells f) r c = f (r % 4) (c % 4) := by
  have index : (laneIndex (4 * (c % 4) + r % 4)).val = 4 * (c % 4) + r % 4 := val_laneIndex_of_lt (by omega)
  have row : (4 * (c % 4) + r % 4) % 4 = r % 4 := by omega
  have column : (4 * (c % 4) + r % 4) / 4 = c % 4 := by omega
  rw [cell, ofCells, lane_ofLanes, index, row, column]

theorem cell_mixColumns (s : Vec) (r c : Nat) :
    cell (mixColumns s) r c =
      mul 0x02 (cell s r c) ^^^ mul 0x03 (cell s (r + 1) c) ^^^ cell s (r + 2) c ^^^ cell s (r + 3) c := by
  simp only [mixColumns, cell_ofCells, cell_mod, cell_mod_add]

theorem cell_invMixColumns (s : Vec) (r c : Nat) :
    cell (invMixColumns s) r c =
      mul 0x0E (cell s r c) ^^^ mul 0x0B (cell s (r + 1) c) ^^^ mul 0x0D (cell s (r + 2) c) ^^^
        mul 0x09 (cell s (r + 3) c) := by
  simp only [invMixColumns, cell_ofCells, cell_mod, cell_mod_add]

theorem mixColumns_xor (s t : Vec) : mixColumns (s ^^^ t) = mixColumns s ^^^ mixColumns t :=
  eq_of_cells fun r c => by
    simp only [cell_xor, cell_mixColumns, mul_xor]
    ac_rfl

theorem invMixColumns_xor (s t : Vec) : invMixColumns (s ^^^ t) = invMixColumns s ^^^ invMixColumns t :=
  eq_of_cells fun r c => by
    simp only [cell_xor, cell_invMixColumns, mul_xor]
    ac_rfl

theorem mixColumns_bcast (b : Byte) : mixColumns (bcast b) = bcast b := eq_of_cells fun r c => by
  simp only [cell_mixColumns, cell_bcast, mul_three, xor_cancel_left, xor_cancel_right]

/-! ### InvMixColumns undoes MixColumns -/

/-- The product of the two matrices has 1 on its diagonal and 0 elsewhere: every power of two times `x` cancels. -/
theorem mul_inverse_matrix (x : Byte) :
    mul 0x0E (mul 0x02 x) ^^^ mul 0x0B x ^^^ mul 0x0D x ^^^ mul 0x09 (mul 0x03 x) = x ∧
      mul 0x0E (mul 0x03 x) ^^^ mul 0x0B (mul 0x02 x) ^^^ mul 0x0D x ^^^ mul 0x09 x = 0 ∧
      mul 0x0E x ^^^ mul 0x0B (mul 0x03 x) ^^^ mul 0x0D (mul 0x02 x) ^^^ mul 0x09 x = 0 ∧
      mul 0x0E x ^^^ mul 0x0B x ^^^ mul 0x0D (mul 0x03 x) ^^^ mul 0x09 (mul 0x02 x) = 0 := by
  simp only [mul_eq_xtime, xtime_xor]
  refine ⟨?_, ?_, ?_, ?_⟩ <;> simp [BitVec.xor_assoc, BitVec.xor_comm, xor_left_comm]

/-- One row of InvMixColumns on the MixColumns of the column `a`, `b`, `c`, `d`: the products are collected by byte. -/
theorem invMixColumn_mixColumn (a b c d : Byte) :
    mul 0x0E (mul 0x02 a ^^^ mul 0x03 b ^^^ c ^^^ d) ^^^ mul 0x0B (mul 0x02 b ^^^ mul 0x03 c ^^^ d ^^^ a) ^^^
      mul 0x0D (mul 0x02 c ^^^ mul 0x03 d ^^^ a ^^^ b) ^^^ mul 0x09 (mul 0x02 d ^^^ mul 0x03 a ^^^ b ^^^ c) = a := by
  obtain ⟨diagonal, -⟩ := mul_inverse_matrix a
  obtain ⟨-, first, -⟩ := mul_inverse_matrix b
  obtain ⟨-, -, second, -⟩ := mul_inverse_matrix c
  obtain ⟨-, -, -, third⟩ := mul_inverse_matrix d
  calc _ = (mul 0x0E (mul 0x02 a) ^^^ mul 0x0B a ^^^ mul 0x0D a ^^^ mul 0x09 (mul 0x03 a)) ^^^
        (mul 0x0E (mul 0x03 b) ^^^ mul 0x0B (mul 0x02 b) ^^^ mul 0x0D b ^^^ mul 0x09 b) ^^^
        (mul 0x0E c ^^^ mul 0x0B (mul 0x03 c) ^^^ mul 0x0D (mul 0x02 c) ^^^ mul 0x09 c) ^^^
        (mul 0x0E d ^^^ mul 0x0B d ^^^ mul 0x0D (mul 0x03 d) ^^^ mul 0x09 (mul 0x02 d)) := by
          simp only [mul_xor]
          ac_rfl
    _ = a := by simp only [diagonal, first, second, third, xor_zero]

theorem invMixColumns_mixColumns (s : Vec) : invMixColumns (mixColumns s) = s := eq_of_cells fun r c => by
  simp only [cell_invMixColumns, cell_mixColumns, Nat.add_assoc, Nat.reduceAdd, cell_add_four]
  exact invMixColumn_mixColumn _ _ _ _

end Sys2Proof.Machine.Fips
end

section
/-! PERMUTE as an action on vectors (R132): it composes, and whatever works lane by lane commutes with it. -/

namespace Sys2Proof.Machine

theorem permute_permute (v p q : Vec) : permute (permute v p) q = permute v (permute p q) :=
  vec_ext fun j => by simp only [lane_permute]

theorem permute_xor (v w p : Vec) : permute (v ^^^ w) p = permute v p ^^^ permute w p :=
  vec_ext fun j => by simp only [lane_permute, lane_xor]

theorem permute_bcast (b : Byte) (p : Vec) : permute (bcast b) p = bcast b :=
  vec_ext fun j => by simp only [lane_permute, lane_bcast]

theorem dipt_permute (v p : Vec) : dipt (permute v p) = permute (dipt v) p :=
  vec_ext fun j => by simp only [lane_dipt, lane_permute]

theorem mulLanes_permute (m : Byte) (v p : Vec) : mulLanes m (permute v p) = permute (mulLanes m v) p :=
  vec_ext fun j => by simp only [lane_mulLanes, lane_permute]

theorem lane_subBytes (v : Vec) (j : Fin 16) : lane (Fips.subBytes v) j = Fips.sbox (lane v j) := lane_ofLanes _ j

theorem subBytes_permute (v p : Vec) : Fips.subBytes (permute v p) = permute (Fips.subBytes v) p :=
  vec_ext fun j => by simp only [lane_subBytes, lane_permute]

/-- The row shifts compose by adding their counts (R117). -/
theorem sr_sr : ∀ i < 4, ∀ j < 4, permute (Rom.SR i) (Rom.SR j) = Rom.SR ((i + j) % 4) := by decide +kernel

theorem permute_sr_sr (v : Vec) {i j : Nat} (hi : i < 4) (hj : j < 4) :
    permute (permute v (Rom.SR i)) (Rom.SR j) = permute v (Rom.SR ((i + j) % 4)) := by
  rw [permute_permute, sr_sr i hi j hj]

theorem permute_sr_zero (v : Vec) : permute v (Rom.SR 0) = v :=
  vec_ext fun j => by
    have place : ∀ j : Fin 16, laneIndex (lane (Rom.SR 0) j).toNat = j := by decide +kernel
    rw [lane_permute, place]

theorem permute_sr_two_sr_two (v : Vec) : permute (permute v (Rom.SR 2)) (Rom.SR 2) = v := by
  rw [permute_sr_sr v (by decide) (by decide), permute_sr_zero]

/-- SR[1] is ShiftRows (R117). -/
theorem permute_sr_one (v : Vec) : permute v (Rom.SR 1) = Fips.shiftRows v :=
  vec_ext fun j => by
    have place : ∀ j : Fin 16, laneIndex (lane (Rom.SR 1) j).toNat =
        laneIndex (4 * ((j.val / 4 + j.val % 4) % 4) + j.val % 4 % 4) := by decide +kernel
    rw [lane_permute, place, Fips.shiftRows, Fips.ofCells, lane_ofLanes, Fips.cell]

end Sys2Proof.Machine
end

section
/-! Turning every column by one row (MCF[0], R115), and the two diffusions of FIPS-197 in terms of it (R203, R277). -/

namespace Sys2Proof.Machine

/-- Row i of each column gets the byte of row i + 1. -/
def rotColumns (v : Vec) : Vec := permute v (Rom.MCF 0)

theorem cell_rotColumns (v : Vec) (r c : Nat) : Fips.cell (rotColumns v) r c = Fips.cell v (r + 1) c := by
  have place : ∀ r < 4, ∀ c < 4,
      laneIndex (lane (Rom.MCF 0) (laneIndex (4 * c + r))).toNat = laneIndex (4 * c + (r + 1) % 4) := by decide +kernel
  rw [Fips.cell, rotColumns, lane_permute, place _ (Nat.mod_lt r (by decide)) _ (Nat.mod_lt c (by decide)), Nat.mod_add_mod]
  rfl

theorem rotColumns_xor (v w : Vec) : rotColumns (v ^^^ w) = rotColumns v ^^^ rotColumns w := permute_xor v w _

theorem rotColumns_bcast (b : Byte) : rotColumns (bcast b) = bcast b := permute_bcast b _

theorem rotColumns_four (v : Vec) : rotColumns (rotColumns (rotColumns (rotColumns v))) = v :=
  Fips.eq_of_cells fun r c => by simp only [cell_rotColumns, Nat.add_assoc, Nat.reduceAdd, Fips.cell_add_four]

theorem permute_mcf_zero (v : Vec) : permute v (Rom.MCF 0) = rotColumns v := rfl

/-- Each byte becomes the sum of the three other bytes of its column. -/
def otherRows (v : Vec) : Vec := rotColumns v ^^^ rotColumns (rotColumns v) ^^^ rotColumns (rotColumns (rotColumns v))

theorem cell_otherRows (v : Vec) (r c : Nat) :
    Fips.cell (otherRows v) r c = Fips.cell v (r + 1) c ^^^ Fips.cell v (r + 2) c ^^^ Fips.cell v (r + 3) c := by
  simp only [otherRows, Fips.cell_xor, cell_rotColumns, Nat.add_assoc, Nat.reduceAdd]

theorem otherRows_xor (v w : Vec) : otherRows (v ^^^ w) = otherRows v ^^^ otherRows w := by
  simp only [otherRows, rotColumns_xor]
  ac_rfl

/-- The map is its own inverse (R203). -/
theorem otherRows_otherRows (v : Vec) : otherRows (otherRows v) = v := Fips.eq_of_cells fun r c => by
  simp only [cell_otherRows, Nat.add_assoc, Nat.reduceAdd, Fips.cell_add_four]
  simp [BitVec.xor_assoc, BitVec.xor_comm, Fips.xor_left_comm]

theorem mixColumns_eq_otherRows (v : Vec) :
    Fips.mixColumns v = rotColumns (mulLanes 0x02 v) ^^^ mulLanes 0x02 v ^^^ otherRows v :=
  Fips.eq_of_cells fun r c => by
    simp only [Fips.cell_mixColumns, Fips.cell_xor, cell_rotColumns, Fips.cell_mulLanes, cell_otherRows, Fips.mul_three]
    ac_rfl

/-- The four stages of the inverse diffusion (R205) on the four products, with one pattern for all of them. -/
def ladder (p c9 cD cB cE : Vec) : Vec := permute (permute (permute c9 p ^^^ cD) p ^^^ cB) p ^^^ cE

theorem invMixColumns_eq_ladder (v : Vec) :
    Fips.invMixColumns v = ladder (Rom.MCF 0) (mulLanes 0x09 v) (mulLanes 0x0D v) (mulLanes 0x0B v) (mulLanes 0x0E v) :=
  Fips.eq_of_cells fun r c => by
    simp only [ladder, permute_mcf_zero, Fips.cell_invMixColumns, Fips.cell_xor, cell_rotColumns, Fips.cell_mulLanes,
      Nat.add_assoc, Nat.reduceAdd]
    ac_rfl

end Sys2Proof.Machine
end

section
/-! SUBCORE with each output pair on a vector in an internal basis (R140), in terms of SubBytes. -/

namespace Sys2Proof.Machine

theorem substByte_dsbo_sbo :
    ∀ x, substByte Rom.DSBOU Rom.DSBOT (diptByte (substByte Rom.SBOU Rom.SBOT (iptByte x))) = x := by decide +kernel

/-- The final output pairs are the two S-boxes (R140), and they undo each other. -/
theorem invSbox_sbox (x : Byte) : Fips.invSbox (Fips.sbox x) = x := by
  have roundTrip := substByte_dsbo_sbo x
  rwa [(substByte_iptByte x).1, (substByte_diptByte _).1, xor_cancel_right] at roundTrip

theorem ofLanes_sbox_xor_63 (v : Vec) : (ofLanes fun j => Fips.sbox (lane v j) ^^^ 0x63) = Fips.subBytes v ^^^ bcast 0x63 :=
  vec_ext fun j => by simp only [lane_ofLanes, lane_xor, lane_subBytes, lane_bcast]

theorem outPair_sbo_ipt (v : Vec) : outPair Rom.SBOU Rom.SBOT (subcore (ipt v)) = Fips.subBytes v ^^^ bcast 0x63 := by
  obtain ⟨sbo, -⟩ := substitutionCoreIsTheAesSbox v
  rw [sbo, ofLanes_sbox_xor_63]

theorem outPair_sb1_ipt (v : Vec) : outPair Rom.SB1U Rom.SB1T (subcore (ipt v)) = ipt (Fips.subBytes v ^^^ bcast 0x63) := by
  rw [outPair_sb1_subcore_ipt, ipt_xor, ipt_bcast_63]

theorem outPair_sb2_ipt (v : Vec) :
    outPair Rom.SB2U Rom.SB2T (subcore (ipt v)) = ipt (mulLanes 0x02 (Fips.subBytes v ^^^ bcast 0x63)) := by
  obtain ⟨-, -, sb2, -⟩ := substitutionCoreIsTheAesSbox v
  rw [sb2, ← ofLanes_sbox_xor_63, mulLanes]
  simp only [lane_ofLanes]

theorem invSbox_lane_subBytes (v : Vec) (j : Fin 16) :
    Fips.invSbox (lane (Fips.subBytes v ^^^ bcast 0x63) j ^^^ 0x63) = lane v j := by
  rw [lane_xor, lane_bcast, xor_cancel_right, lane_subBytes, invSbox_sbox]

theorem ofLanes_lane (v : Vec) : (ofLanes fun j => lane v j) = v := vec_ext (lane_ofLanes _)

/-- The decryption pairs on a substituted vector: they undo the substitution and multiply. -/
theorem outPairs_dipt_subBytes (v : Vec) :
    let d := subcore (dipt (Fips.subBytes v ^^^ bcast 0x63))
    outPair Rom.DSBOU Rom.DSBOT d = v ∧ outPair Rom.SB9U Rom.SB9T d = dipt (mulLanes 0x09 v) ∧
      outPair Rom.SBDU Rom.SBDT d = dipt (mulLanes 0x0D v) ∧ outPair Rom.SBBU Rom.SBBT d = dipt (mulLanes 0x0B v) ∧
      outPair Rom.SBEU Rom.SBET d = dipt (mulLanes 0x0E v) := by
  obtain ⟨-, -, -, dsbo, sb9, sbD, sbB, sbE⟩ := substitutionCoreIsTheAesSbox (Fips.subBytes v ^^^ bcast 0x63)
  simp only [invSbox_lane_subBytes, ofLanes_lane] at dsbo sb9 sbD sbB sbE
  exact ⟨dsbo, sb9, sbD, sbB, sbE⟩

end Sys2Proof.Machine
end

section
/-! The rotation tables of a round on a row-shifted vector turn its columns, whatever the round (R203, R206). -/

namespace Sys2Proof.Machine

theorem negMod4_mod (r : Nat) : negMod4 (r % 4) = negMod4 r := by rw [negMod4, Nat.mod_mod, negMod4]

theorem sr_mcf : ∀ k < 4, permute (Rom.SR (negMod4 k)) (Rom.MCF k) = permute (Rom.MCF 0) (Rom.SR (negMod4 k)) := by
  decide +kernel

theorem sr_mcb : ∀ k < 4, permute (Rom.SR (negMod4 k)) (Rom.MCB k) =
    permute (permute (permute (Rom.MCF 0) (Rom.MCF 0)) (Rom.MCF 0)) (Rom.SR (negMod4 k)) := by
  decide +kernel

theorem permute_sr_mcf (v : Vec) (r : Nat) :
    permute (permute v (Rom.SR (negMod4 r))) (Rom.MCF (r % 4)) = permute (rotColumns v) (Rom.SR (negMod4 r)) := by
  rw [← negMod4_mod, permute_permute, sr_mcf _ (Nat.mod_lt r (by decide)), ← permute_permute, permute_mcf_zero]

theorem permute_sr_mcb (v : Vec) (r : Nat) :
    permute (permute v (Rom.SR (negMod4 r))) (Rom.MCB (r % 4)) =
      permute (rotColumns (rotColumns (rotColumns v))) (Rom.SR (negMod4 r)) := by
  rw [← negMod4_mod, permute_permute, sr_mcb _ (Nat.mod_lt r (by decide))]
  simp only [← permute_permute]
  rfl

theorem permute_sr_mcf_negMod4 (v : Vec) (r : Nat) :
    permute (permute v (Rom.SR (r % 4))) (Rom.MCF (negMod4 r)) = permute (rotColumns v) (Rom.SR (r % 4)) := by
  rw [← negMod4_negMod4, permute_permute, sr_mcf _ (negMod4_lt r), ← permute_permute, permute_mcf_zero]

end Sys2Proof.Machine
end

section
/-! A middle round of encryption (R201 to R203): the diffusion of a round is MixColumns on the row-shifted state. -/

namespace Sys2Proof.Machine

/-- The diffusion of an encryption middle round (R201): `a` carries the round key, `d` is the doubled substitution output. -/
def diffuse (k : Nat) (a d : Vec) : Vec :=
  permute (d ^^^ permute a (Rom.MCF k)) (Rom.MCF k) ^^^ permute a (Rom.MCB k) ^^^ (d ^^^ permute a (Rom.MCF k))

theorem diffuse_ipt (k : Nat) (a d : Vec) : diffuse k (ipt a) (ipt d) = ipt (diffuse k a d) := by
  simp only [diffuse, ipt_xor, ipt_permute]

theorem encRound_eq_diffuse (ek : RoundKeys) (b : Vec) (r : Nat) :
    encRound ek b r = diffuse (r % 4) (outPair Rom.SB1U Rom.SB1T (subcore b) ^^^ slot ek r)
      (outPair Rom.SB2U Rom.SB2T (subcore b)) := rfl

theorem diffuse_permute_sr (r : Nat) (a d : Vec) :
    diffuse (r % 4) (permute a (Rom.SR (negMod4 r))) (permute d (Rom.SR (negMod4 r))) =
      permute (rotColumns d ^^^ d ^^^ otherRows a) (Rom.SR (negMod4 r)) := by
  simp only [diffuse, permute_sr_mcf, permute_sr_mcb, ← permute_xor, otherRows, rotColumns_xor]
  congr 1
  ac_rfl

/-- The round key is stored with the inverse of the diffusion that it goes through (R164, R203). -/
theorem mangleEnc_ipt (w : Vec) (s : Nat) :
    mangleEnc (ipt w) s = ipt (permute (otherRows (w ^^^ bcast 0x63)) (Rom.SR s)) := by
  rw [mangleEnc, ← ipt_bcast_63, ← ipt_xor]
  simp only [← ipt_permute, ← ipt_xor]
  rfl

/-- The diffusion of a round key and of a substitution output with its constant 0x63 is MixColumns and the plain round key. -/
theorem diffuse_eq_mixColumns (t w : Vec) :
    rotColumns (mulLanes 0x02 (t ^^^ bcast 0x63)) ^^^ mulLanes 0x02 (t ^^^ bcast 0x63) ^^^
        otherRows (t ^^^ bcast 0x63 ^^^ otherRows (w ^^^ bcast 0x63)) = Fips.mixColumns t ^^^ w := by
  rw [otherRows_xor, otherRows_otherRows, ← BitVec.xor_assoc, ← mixColumns_eq_otherRows, Fips.mixColumns_xor,
    Fips.mixColumns_bcast, BitVec.xor_comm w, ← BitVec.xor_assoc, xor_cancel_right]

/-- One middle round: with the SubBytes of the state `x` row-shifted as the round's tables expect it, the round is MixColumns
and AddRoundKey. -/
theorem encRound_ipt {ek : RoundKeys} {r : Nat} {x t w : Vec} (hk : slot ek r = mangleEnc (ipt w) (negMod4 r))
    (hx : Fips.subBytes x = permute t (Rom.SR (negMod4 r))) :
    encRound ek (ipt x) r = ipt (permute (Fips.mixColumns t ^^^ w) (Rom.SR (negMod4 r))) := by
  have substituted : Fips.subBytes x ^^^ bcast 0x63 = permute (t ^^^ bcast 0x63) (Rom.SR (negMod4 r)) := by
    rw [hx, permute_xor, permute_bcast]
  rw [encRound_eq_diffuse, outPair_sb1_ipt, outPair_sb2_ipt, hk, mangleEnc_ipt, substituted, ← ipt_xor, ← permute_xor,
    mulLanes_permute, diffuse_ipt, diffuse_permute_sr, diffuse_eq_mixColumns]

end Sys2Proof.Machine
end

section
/-! A middle round of decryption (R205, R209): the ladder is InvMixColumns on the row-shifted state. -/

namespace Sys2Proof.Machine

theorem ladder_dipt (p c9 cD cB cE : Vec) :
    ladder p (dipt c9) (dipt cD) (dipt cB) (dipt cE) = dipt (ladder p c9 cD cB cE) := by
  simp only [ladder, dipt_xor, dipt_permute]

theorem decRound_fst_eq_ladder (dk : RoundKeys) (s : Vec × Vec) (r : Nat) :
    (decRound dk s r).1 = ladder s.2 (outPair Rom.SB9U Rom.SB9T (subcore s.1) ^^^ slot dk r)
      (outPair Rom.SBDU Rom.SBDT (subcore s.1)) (outPair Rom.SBBU Rom.SBBT (subcore s.1))
      (outPair Rom.SBEU Rom.SBET (subcore s.1)) := rfl

theorem ladder_permute_sr (r : Nat) (c9 cD cB cE : Vec) :
    ladder (Rom.MCF (negMod4 r)) (permute c9 (Rom.SR (r % 4))) (permute cD (Rom.SR (r % 4))) (permute cB (Rom.SR (r % 4)))
        (permute cE (Rom.SR (r % 4))) = permute (ladder (Rom.MCF 0) c9 cD cB cE) (Rom.SR (r % 4)) := by
  simp only [ladder, permute_sr_mcf_negMod4, ← permute_xor, permute_mcf_zero]

/-- A key added in the first stage is turned by the three stages after it. -/
theorem ladder_xor (c9 cD cB cE k : Vec) :
    ladder (Rom.MCF 0) (c9 ^^^ k) cD cB cE =
      ladder (Rom.MCF 0) c9 cD cB cE ^^^ rotColumns (rotColumns (rotColumns k)) := by
  simp only [ladder, permute_mcf_zero, rotColumns_xor]
  ac_rfl

/-- The round key is stored as its InvMixColumns, turned by the one row that the three stages of the ladder leave (R165). -/
theorem mangleDec_ipt (w : Vec) (s : Nat) :
    mangleDec (ipt w) s = dipt (permute (rotColumns (Fips.invMixColumns w) ^^^ bcast 0x63) (Rom.SR s)) := by
  rw [mangleDec]
  simp only [affine_dsk01_ipt, affine_dsk23_dipt, affine_dsk45_dipt, affine_dsk67_dipt, ← dipt_bcast_63, ← dipt_permute,
    ← dipt_xor]
  simp only [permute_mcf_zero, invMixColumns_eq_ladder, ladder, rotColumns_xor, rotColumns_four, rotColumns_bcast]
  congr 2
  ac_rfl

theorem permute_dipt_subBytes (v p : Vec) :
    permute (dipt (Fips.subBytes v ^^^ bcast 0x63)) p = dipt (Fips.subBytes (permute v p) ^^^ bcast 0x63) := by
  rw [← dipt_permute, permute_xor, permute_bcast, subBytes_permute]

/-- One middle round: on the substituted state of a MixColumns and AddRoundKey, row-shifted as the rotating table expects it, the
round gives back the argument of MixColumns. -/
theorem decRound_dipt {dk : RoundKeys} {s : Vec × Vec} {r : Nat} {t w : Vec}
    (hk : slot dk r = mangleDec (ipt w) (r % 4)) (hmc : s.2 = Rom.MCF (negMod4 r))
    (hb : s.1 = permute (dipt (Fips.subBytes (Fips.mixColumns t ^^^ w) ^^^ bcast 0x63)) (Rom.SR (r % 4))) :
    (decRound dk s r).1 = permute (dipt (t ^^^ bcast 0x63)) (Rom.SR (r % 4)) := by
  obtain ⟨-, sb9, sbD, sbB, sbE⟩ := outPairs_dipt_subBytes (permute (Fips.mixColumns t ^^^ w) (Rom.SR (r % 4)))
  rw [decRound_fst_eq_ladder, hmc, hb, permute_dipt_subBytes, sb9, sbD, sbB, sbE, hk, mangleDec_ipt, ← dipt_xor, ladder_dipt]
  simp only [mulLanes_permute, ← permute_xor, ladder_permute_sr, ladder_xor, ← invMixColumns_eq_ladder]
  rw [rotColumns_xor, rotColumns_xor, rotColumns_xor, rotColumns_four, rotColumns_bcast, rotColumns_bcast, rotColumns_bcast,
    ← BitVec.xor_assoc, ← Fips.invMixColumns_xor, xor_cancel_right, Fips.invMixColumns_mixColumns, dipt_permute]

end Sys2Proof.Machine
end

section
/-! The round invariants of R202 and R209, and the statements about the block transforms. -/

namespace Sys2Proof.Machine

theorem nr_mod_four {key : List Byte} (h : AesKey key) : Fips.nr key % 4 = 2 := by
  rcases h with len | len
  · rw [nr_of_16 len]
  · rw [nr_of_32 len]

theorem keySched_nr {key : List Byte} (h : AesKey key) : (keySched key).nr = Fips.nr key := by
  obtain ⟨nr, -⟩ := storedKeysHaveTheirClosedForms key h
  exact nr

/-- ShiftRows before the row shift of round `r` + 1 is the row shift of round `r`. -/
theorem permute_shiftRows_sr_negMod4 (v : Vec) (r : Nat) :
    permute (Fips.shiftRows v) (Rom.SR (negMod4 (r + 1))) = permute v (Rom.SR (negMod4 r)) := by
  have index : (1 + negMod4 (r + 1)) % 4 = negMod4 r := by
    rw [negMod4, negMod4]
    omega
  rw [← permute_sr_one, permute_sr_sr v (by decide) (negMod4_lt _), index]

theorem permute_shiftRows_sr (v : Vec) (r : Nat) :
    permute (Fips.shiftRows v) (Rom.SR (r % 4)) = permute v (Rom.SR ((r + 1) % 4)) := by
  rw [← permute_sr_one, permute_sr_sr v (by decide) (Nat.mod_lt r (by decide)), Nat.add_mod_mod, Nat.add_comm 1]

/-- The same of a state with a constant added, in the decryption basis. -/
theorem permute_dipt_shiftRows_sr (v : Vec) (b : Byte) (r : Nat) :
    permute (dipt (Fips.shiftRows v ^^^ bcast b)) (Rom.SR (r % 4)) = permute (dipt (v ^^^ bcast b)) (Rom.SR ((r + 1) % 4)) := by
  simp only [← dipt_permute, permute_xor, permute_bcast, permute_shiftRows_sr]

theorem encMiddle_zero (b : Vec) (ek : RoundKeys) : encMiddle b ek 0 = ipt b ^^^ slot ek 0 := rfl

theorem decMiddle_zero (b : Vec) (dk : RoundKeys) : decMiddle b dk 0 = (dipt b ^^^ slot dk 0, Rom.MCF 3) := rfl

theorem negMod4_zero : negMod4 0 = 0 := rfl

/-- R202: the state after the initial step and the middle rounds 1..`r`. -/
theorem encMiddle_eq_stateAfter {key : List Byte} (h : AesKey key) (p : Vec) {r : Nat} (hr : r < Fips.nr key) :
    encMiddle p (keySched key).ek r = ipt (permute (Fips.stateAfter p key r) (Rom.SR (negMod4 r))) := by
  obtain ⟨nr, ekFirst, middle, -⟩ := storedKeysHaveTheirClosedForms key h
  induction r with
  | zero => rw [encMiddle_zero, ekFirst, ← ipt_xor, negMod4_zero, permute_sr_zero, Fips.stateAfter]
  | succ r ih =>
    obtain ⟨ekMiddle, -⟩ := middle (r + 1) (by omega) (by omega)
    have aligned : Fips.subBytes (permute (Fips.stateAfter p key r) (Rom.SR (negMod4 r))) =
        permute (Fips.shiftRows (Fips.subBytes (Fips.stateAfter p key r))) (Rom.SR (negMod4 (r + 1))) := by
      rw [permute_shiftRows_sr_negMod4, subBytes_permute]
    rw [encMiddle_succ, ih (by omega), encRound_ipt ekMiddle aligned, Fips.stateAfter]

/-- R202: the output. With the final row shift, that of the last state adds up to one ShiftRows, and that of the last key to
none. -/
theorem encBlock_eq_cipher {key : List Byte} (h : AesKey key) (p : Vec) :
    encBlock p (keySched key).ek (keySched key).nr = Fips.cipher p key := by
  obtain ⟨nr, -, -, ekLast, -⟩ := storedKeysHaveTheirClosedForms key h
  obtain ⟨pos, -⟩ := nr_bounds h
  have last : negMod4 (Fips.nr key - 1) = 3 := by
    have residue := nr_mod_four h
    rw [negMod4]
    omega
  rw [nr] at ekLast
  rw [encBlock, nr, encMiddle_eq_stateAfter h p (by omega), outPair_sbo_ipt, ekLast, nr_mod_four h, last, subBytes_permute,
    BitVec.xor_comm (permute (Fips.roundKey _ _) _), ← BitVec.xor_assoc, xor_cancel_right, permute_xor, permute_sr_two_sr_two,
    permute_sr_sr _ (by decide) (by decide), permute_sr_one, Fips.cipher]

/-- Settles O55: each middle round is MixColumns and AddRoundKey on the row-shifted state, and the final step realigns it. -/
theorem encryptionStateFollowsFips : Obligations.EncryptionStateFollowsFips := by
  intro key p h
  rw [keySched_nr h]
  refine ⟨fun r hr => ?_, ?_⟩
  · rw [encMiddle_eq_stateAfter h p hr, ipt_permute]
  · rw [← keySched_nr h, encBlock_eq_cipher h, Fips.cipher, keySched_nr h]

/-- R209: the state before decryption round `r` + 1. -/
theorem decMiddle_eq_stateAfter {key : List Byte} (h : AesKey key) (p : Vec) {r : Nat} (hr : r < Fips.nr key) :
    (decMiddle (Fips.cipher p key) (keySched key).dk r).1 =
      permute (dipt (Fips.subBytes (Fips.stateAfter p key (Fips.nr key - 1 - r)) ^^^ bcast 0x63))
        (Rom.SR ((r + 1) % 4)) := by
  obtain ⟨nr, -, middle, -, dkFirst, -⟩ := storedKeysHaveTheirClosedForms key h
  rw [nr] at middle dkFirst
  induction r with
  | zero =>
    rw [decMiddle_zero, dkFirst, ← dipt_bcast_63, ← dipt_xor, ← dipt_xor, Fips.cipher, ← BitVec.xor_assoc,
      xor_cancel_right]
    exact (permute_sr_zero _).symm.trans (permute_dipt_shiftRows_sr _ 0x63 0)
  | succ r ih =>
    obtain ⟨-, dkMiddle⟩ := middle (Fips.nr key - 1 - r) (by omega) (by omega)
    have slotIndex : Fips.nr key - (Fips.nr key - 1 - r) = r + 1 := by omega
    have previous : Fips.nr key - 1 - r = Fips.nr key - 1 - (r + 1) + 1 := by omega
    rw [slotIndex, previous] at dkMiddle
    rw [previous, Fips.stateAfter] at ih
    rw [decMiddle_succ, decRound_dipt dkMiddle (decMiddle_snd _ _ r) (ih (by omega)), permute_dipt_shiftRows_sr]

/-- R209: the output, the input of the encryption. -/
theorem decBlock_cipher {key : List Byte} (h : AesKey key) (p : Vec) :
    decBlock (Fips.cipher p key) (keySched key).dk (keySched key).nr = Fips.stateAfter p key 0 ^^^ Fips.roundKey key 0 := by
  obtain ⟨nr, -, -, -, -, dkLast, -⟩ := storedKeysHaveTheirClosedForms key h
  obtain ⟨pos, -⟩ := nr_bounds h
  have selector : whichSr (Fips.nr key) = 2 := by
    have residue := nr_mod_four h
    rw [whichSr_eq_sub_mod]
    omega
  have state : (decMiddle (Fips.cipher p key) (keySched key).dk (Fips.nr key - 1)).1 =
      dipt (Fips.subBytes (permute (Fips.stateAfter p key 0) (Rom.SR 2)) ^^^ bcast 0x63) := by
    rw [decMiddle_eq_stateAfter h p (by omega), Nat.sub_self, Nat.sub_add_cancel pos, nr_mod_four h,
      permute_dipt_subBytes]
  obtain ⟨dsbo, -⟩ := outPairs_dipt_subBytes (permute (Fips.stateAfter p key 0) (Rom.SR 2))
  rw [nr] at dkLast
  rw [decBlock, nr, state, dsbo, dkLast, selector, permute_xor, permute_sr_two_sr_two, permute_sr_two_sr_two]

/-- Settles O56: each middle round undoes one of the encryption's, from the last back, and AddRoundKey undoes itself. -/
theorem decryptionStateFollowsFips : Obligations.DecryptionStateFollowsFips := by
  intro key p h
  refine ⟨fun r hr => ?_, decBlock_cipher h p, xor_cancel_right p _⟩
  rw [keySched_nr h] at hr ⊢
  exact decMiddle_eq_stateAfter h p hr

/-- Settles O58: ENC_BLOCK gives the ciphertext, from which DEC_BLOCK gives the block. -/
theorem decryptionUndoesEncryption : Obligations.DecryptionUndoesEncryption := by
  intro key p h
  obtain ⟨-, output, input⟩ := decryptionStateFollowsFips key p h
  rw [encBlock_eq_cipher h, output, input]

end Sys2Proof.Machine
end

section
/-! Host register accesses (R231, R238, R239): a write to CMD of a busy engine, the writes to the three operand registers, and the
values that reads of the eight registers return. -/

namespace Sys2Proof.Machine

/-! ### Writes -/

/-- A busy engine ignores the words that the decoder rejects (R74) as well as the commands (R231). -/
theorem writeCmd_busy (c : Word) {s : State} (h : s.busy = true) : writeCmd c s = .next s := by
  cases hc : decode c with
  | error e => rw [writeCmd_error hc, if_pos h]
  | ok i =>
    rw [writeCmd, hc]
    exact exec_busy i h

@[simp] theorem writeReg_cmd (c : Word) (s : State) : writeReg .cmd c s = writeCmd c s := rfl
@[simp] theorem writeReg_src (v : Word) (s : State) : writeReg .src v s = .next { s with src := v } := rfl
@[simp] theorem writeReg_dst (v : Word) (s : State) : writeReg .dst v s = .next { s with dst := v } := rfl
@[simp] theorem writeReg_len (v : Word) (s : State) : writeReg .len v s = .next { s with len := v } := rfl

/-- Settles O6: taking the transition leaves BUSY as it was, and a busy engine ignores every word. -/
theorem busyEngineIgnoresEveryCommandWrite : Obligations.BusyEngineIgnoresEveryCommandWrite := by
  intro s c rest hb hs
  rw [step_wrReg hs, writeReg_cmd, writeCmd_busy c (by rw [State.advance_busy, hb])]

/-- Settles O33: a register write sets the register that it names, and no case of it asks for BUSY. -/
theorem operandRegistersAreWritableAtAnyTime : Obligations.OperandRegistersAreWritableAtAnyTime := by
  refine fun s v rest => ⟨fun hs => ?_, fun hs => ?_, fun hs => ?_⟩
  · rw [step_wrReg hs, writeReg_src]
  · rw [step_wrReg hs, writeReg_dst]
  · rw [step_wrReg hs, writeReg_len]

/-! ### Reads -/

/-- A flag as the number that the spec writes for it, at bit 0 and at bit 1. -/
theorem flagBit_eq_natCast (b : Bool) : flagBit b = ((if b then 1 else 0 : Nat) : Word) := by
  cases b <;> decide

theorem flagBit_shiftLeft_one (b : Bool) : flagBit b <<< 1 = (((if b then 1 else 0) <<< 1 : Nat) : Word) := by
  cases b <;> decide

@[simp] theorem readReg_status (s : State) : readReg s .status = statusWord s := rfl

/-- Settles O35: a read gives the value from before the transition, which moves no register on. Six of the values are stored or
constant; CAPS depends on the accepted key lengths, and STATUS is assembled from its fields. -/
theorem registerReadsReturnTheCurrentValue : Obligations.RegisterReadsReturnTheCurrentValue := by
  refine ⟨fun s r rest hs => ?_, fun s => ⟨rfl, rfl, rfl, ?caps, rfl, rfl, rfl, ?status⟩⟩
  · rw [step_rdReg hs, readReg_advance]
  case caps =>
    rw [readReg_caps]
    cases h : s.cfg.keyLengths with
    | both => exact capsWord_of_both h
    | only16 => exact capsWord_of_only16 h
    | only32 => exact capsWord_of_only32 h
  case status => rw [readReg_status, statusWord, flagBit_shiftLeft_one, flagBit_eq_natCast]

end Sys2Proof.Machine
end

section
/-! The FIPS-197 contract: the S-box and its tables (R271, R272), the inverse cipher as the inverse of the cipher (R276), and the
block transforms as the two ciphers (R278). -/

namespace Sys2Proof.Machine

namespace Fips

/-! ### The S-box -/

theorem sbox_eq_table : ∀ x, sbox x = sboxTable.getD x.toNat 0 := by decide +kernel

/-- A left inverse on the finitely many bytes is a right inverse. -/
theorem sbox_invSbox (x : Byte) : sbox (invSbox x) = x := by
  have left : Function.LeftInverse invSbox sbox := invSbox_sbox
  exact left.rightInverse_of_surjective (Finite.surjective_of_injective left.injective) x

/-! ### The inverse cipher -/

theorem invSubBytes_subBytes (s : Vec) : invSubBytes (subBytes s) = s :=
  vec_ext fun j => by rw [invSubBytes, lane_ofLanes, lane_subBytes, invSbox_sbox]

/-- Row `r` goes `r` columns on and `r` columns back. -/
theorem invShiftRows_shiftRows (s : Vec) : invShiftRows (shiftRows s) = s := eq_of_cells fun r c => by
  rw [invShiftRows, cell_ofCells, shiftRows, cell_ofCells]
  exact cell_congr s (by omega) (by omega)

/-- Round by round the inverse cipher has, before its InvShiftRows, the cipher's state after ShiftRows (R275, R276). -/
theorem invStateAfter_cipher (p : Vec) (key : List Byte) {n : Nat} (hn : n < nr key) :
    invStateAfter (cipher p key) key n = shiftRows (subBytes (stateAfter p key (nr key - 1 - n))) := by
  induction n with
  | zero => rw [invStateAfter, cipher, xor_cancel_right, Nat.sub_zero]
  | succ n ih =>
    have round : nr key - 1 - n = nr key - 1 - (n + 1) + 1 := by omega
    rw [invStateAfter, ih (by omega), invShiftRows_shiftRows, invSubBytes_subBytes, round, stateAfter, xor_cancel_right,
      invMixColumns_mixColumns]

/-- R276, for every key. -/
theorem invCipher_cipher (p : Vec) (key : List Byte) : invCipher (cipher p key) key = p := by
  have last : nr key - 1 < nr key := Nat.sub_lt (Nat.succ_pos _) Nat.one_pos
  rw [invCipher, invStateAfter_cipher p key last, invShiftRows_shiftRows, invSubBytes_subBytes, Nat.sub_self, stateAfter,
    xor_cancel_right]

/-- Every block is a ciphertext: the cipher is one-to-one on the finitely many blocks. -/
theorem cipher_invCipher (c : Vec) (key : List Byte) : cipher (invCipher c key) key = c := by
  have left : Function.LeftInverse (invCipher · key) (cipher · key) := (invCipher_cipher · key)
  exact left.rightInverse_of_surjective (Finite.surjective_of_injective left.injective) c

end Fips

/-- Settles O51: the equation gives the table over the 256 bytes, and the two S-boxes undo each other. -/
theorem sboxEquationAgreesWithItsTable : Obligations.SboxEquationAgreesWithItsTable :=
  fun x => ⟨Fips.sbox_eq_table x, invSbox_sbox x, Fips.sbox_invSbox x⟩

/-- Settles O57: ENC_BLOCK is the cipher round by round, and DEC_BLOCK, which undoes ENC_BLOCK, gets from any block the one that
the cipher takes to it. -/
theorem blockTransformsAreFips197 : Obligations.BlockTransformsAreFips197 := by
  refine fun key c h => ⟨encBlock_eq_cipher h c, ?_⟩
  calc decBlock c (keySched key).dk (keySched key).nr
    _ = decBlock (encBlock (Fips.invCipher c key) (keySched key).ek (keySched key).nr) (keySched key).dk (keySched key).nr := by
      rw [encBlock_eq_cipher h, Fips.cipher_invCipher]
    _ = Fips.invCipher c key := decryptionUndoesEncryption key _ h

end Sys2Proof.Machine
end

section
/-! The errors found at acceptance (R302, R303, R305): what SET_KEY and the two commands on blocks answer at each check, in the
order of R308. -/

namespace Sys2Proof.Machine

/-! ### Buffers out of range -/

/-- R54: out of range means non-empty and ending past the address space. -/
theorem inRange_eq_false_iff (c : Config) (a : Word) (l : Nat) :
    inRange c a l = false ↔ l ≠ 0 ∧ 2 ^ c.addrBits < a.toNat + l := by
  rw [← Bool.not_eq_true, inRange_iff, not_or, not_le]

theorem bufferLength_ne_zero {len : Word} (h : len ≠ 0) : bufferLength len ≠ 0 := by
  rw [bufferLength]
  exact Nat.mul_ne_zero (by decide) (BitVec.toNat_ne_iff_ne.mpr h)

/-- The length 0 is no key length of any instance (R302). -/
theorem ne_zero_of_keyLengthAccepted {c : Config} {len : Word} (h : keyLengthAccepted c len = true) : len ≠ 0 := by
  obtain ⟨rfl, -⟩ | ⟨rfl, -⟩ := (keyLengthAccepted_iff c len).mp h <;> decide

/-! ### SET_KEY -/

theorem exec_setKey_of_lengthRejected {s : State} (hb : s.busy = false) (hl : keyLengthAccepted s.cfg s.len = false) :
    exec .setKey s = .next (s.acceptError .invalidKeyLength) := by
  simp [exec, execSetKey, hb, hl]

theorem exec_setKey_of_lengthAccepted {s : State} (hb : s.busy = false) (hl : keyLengthAccepted s.cfg s.len = true) :
    exec .setKey s =
      .next (if inRange s.cfg s.src s.len.toNat then s.start .setKey .key else s.acceptError .addressRange) := by
  cases hr : inRange s.cfg s.src s.len.toNat <;> simp [exec, execSetKey, hb, hl, hr]

/-- An accepted length starts the command with ERRCODE 0 or fails the range check with ERRCODE 4. -/
theorem exec_setKey_ne_invalidKeyLength {s : State} (hb : s.busy = false) (hl : keyLengthAccepted s.cfg s.len = true) :
    exec .setKey s ≠ .next (s.acceptError .invalidKeyLength) := by
  rw [exec_setKey_of_lengthAccepted hb hl]
  intro h
  have code := congrArg State.errCode (Host.Outcome.next.inj h)
  split at code <;> simp at code

/-- Settles O8: the length check is the first one, and a length that passes it ends in another ERRCODE. -/
theorem setKeyRejectsOtherKeyLengths : Obligations.SetKeyRejectsOtherKeyLengths := by
  refine ⟨rfl, fun s hb => ?_⟩
  rw [← keyLengthAccepted_iff, Bool.not_eq_true]
  constructor
  · exact exec_setKey_of_lengthRejected hb
  · intro h
    by_contra accepted
    exact exec_setKey_ne_invalidKeyLength hb (Bool.of_not_eq_false accepted) h

/-! ### ENCRYPT_N and DECRYPT_N -/

theorem acceptCrypt_of_noKey (op : Instr) {s : State} (hb : s.busy = false) (hk : s.keyValid = false) :
    acceptCrypt op s = .next (s.acceptError .keyNotSet) := by
  simp [acceptCrypt, hb, hk]

theorem acceptCrypt_of_outOfRange (op : Instr) {s : State} (hb : s.busy = false) (hk : s.keyValid = true)
    (hr : inRange s.cfg s.src (bufferLength s.len) = false ∨ inRange s.cfg s.dst (bufferLength s.len) = false) :
    acceptCrypt op s = .next (s.acceptError .addressRange) := by
  obtain hr | hr := hr <;> simp [acceptCrypt, hb, hk, hr]

/-- Settles O10: the check of KEY_VALID, which both commands share, comes before the one that looks at LEN and the buffers. -/
theorem cryptCommandsNeedAKey : Obligations.CryptCommandsNeedAKey :=
  ⟨rfl, fun _ hb hk => ⟨acceptCrypt_of_noKey .encryptN hb hk, acceptCrypt_of_noKey .decryptN hb hk⟩⟩

/-- Settles O11: no accepted key length is 0, nor is LEN in the second part, so no buffer is empty, and one that ends past the
address space fails the range check. -/
theorem buffersOutOfRangeAreRejected : Obligations.BuffersOutOfRangeAreRejected := by
  refine ⟨rfl, fun s hb accepted past => ?_, fun s hb hk hlen past => ?_⟩
  · have hl := (keyLengthAccepted_iff s.cfg s.len).mpr accepted
    have nonempty := BitVec.toNat_ne_iff_ne.mpr (ne_zero_of_keyLengthAccepted hl)
    have outside := (inRange_eq_false_iff s.cfg s.src _).mpr ⟨nonempty, past⟩
    rw [exec_setKey_of_lengthAccepted hb hl, outside]
    rfl
  · have outside {a : Word} (h : 2 ^ s.cfg.addrBits < a.toNat + 16 * s.len.toNat) :
        inRange s.cfg a (bufferLength s.len) = false :=
      (inRange_eq_false_iff s.cfg a _).mpr ⟨bufferLength_ne_zero hlen, h⟩
    have failed := past.imp outside outside
    exact ⟨acceptCrypt_of_outOfRange .encryptN hb hk failed, acceptCrypt_of_outOfRange .decryptN hb hk failed⟩

end Sys2Proof.Machine
end

section
/-! What one transition can do, inverted: the states that an engine step (R232 to R236) and a host event (R230) can answer. Every
statement about all transitions goes through these cases. -/

namespace Sys2Proof.Machine

/-! ### One engine step -/

/-- `t` is `s` but for the bytes of block CUR_I of the output buffer, the access log and the record of overwritten bytes, and its
memory is canonical if that of `s` is. -/
structure BlockTouched (s t : State) : Prop where
  frame : t = { s with mem := t.mem, busLog := t.busLog, engWrote := t.engWrote }
  outside : Memory.wf s.mem = true → SameMemoryOutside s t (blockAddr s.curDst s.curI) 16
  wf : Memory.wf s.mem = true → Memory.wf t.mem = true

section
variable {s t : State} (h : BlockTouched s t)
include h

theorem BlockTouched.sameKey : SameKey s t := by
  rw [h.frame]
  exact ⟨rfl, rfl, rfl, rfl⟩

theorem BlockTouched.sameOperands : SameOperands s t := by
  rw [h.frame]
  exact ⟨rfl, rfl, rfl, rfl⟩

theorem BlockTouched.sameHostSide : SameHostSide s t := by
  rw [h.frame]
  exact ⟨rfl, rfl, rfl⟩

theorem BlockTouched.progress : t.progress = s.progress := by
  rw [h.frame]

end

section
variable {s r : State} (hr : r = { s with busLog := r.busLog })
include hr

/-- Such are the states after the writes of a block, from a state `r` after its reads. -/
theorem blockTouched_engineWriteBytes (v : Vec) :
    BlockTouched s (r.engineWriteBytes (blockAddr s.curDst s.curI) (toBytes v)) := by
  have mem : r.mem = s.mem := by rw [hr]
  constructor
  case frame =>
    rw [State.engineWriteBytes_eq]
    generalize (r.engineWriteBytes _ _).mem = m, (r.engineWriteBytes _ _).engWrote = w
    rw [hr]
  case outside =>
    intro wf x hx
    rw [State.engineWriteBytes_outside (by rw [mem, wf]) _ _ (by simpa using hx), mem]
  case wf =>
    intro wf
    exact State.engineWriteBytes_wf (by rw [mem, wf]) _ _

theorem blockTouched_freeBytes : BlockTouched s (r.freeBytes (blockAddr s.curDst s.curI) 16) := by
  have mem : r.mem = s.mem := by rw [hr]
  constructor
  case frame =>
    rw [State.freeBytes]
    generalize r.mem.writeBytes _ _ = m
    rw [hr]
  case outside =>
    intro wf x hx
    rw [State.freeBytes_outside (by rw [mem, wf]) _ _ hx, mem]
  case wf =>
    intro wf
    exact State.freeBytes_wf (by rw [mem, wf]) _ _

end

/-- The states that an engine step can answer from `s`. The accesses that were made before a refused one are `as`. -/
inductive EngineOutcome (s : State) : State → Prop
  | idle (h : s.phase = .idle) : EngineOutcome s s
  | keyLoaded (h : s.phase = .key) (hn : s.curN = 16 ∨ s.curN = 32)
      (ha : PlatformAnswers s.cfg .read s.curSrc.toNat s.curN.toNat) :
      EngineOutcome s (((s.logAccesses .read (List.range' s.curSrc.toNat s.curN.toNat)).commitKey
        (keySched ((List.range' s.curSrc.toNat s.curN.toNat).map s.engineByte))).complete .ok)
  | keyRefused (h : s.phase = .key) (as : List Nat) : EngineOutcome s ((s.logAccesses .read as).complete .busError)
  | batchDone (h : s.phase = .crypt) (hi : s.curI.toNat = s.curN.toNat) : EngineOutcome s (s.complete .ok)
  | readRefused (h : s.phase = .crypt) (as : List Nat) : EngineOutcome s ((s.logAccesses .read as).complete .busError)
  | writeRefused (h : s.phase = .crypt) (hi : s.curI.toNat ≠ s.curN.toNat) {t : State} (ht : BlockTouched s t) :
      EngineOutcome s (t.complete .busError)
  | blockStored (h : s.phase = .crypt) (hi : s.curI.toNat ≠ s.curN.toNat) {t : State} (ht : BlockTouched s t) :
      EngineOutcome s t.blockDone
  | cleared (h : s.phase = .clr) : EngineOutcome s (s.eraseKey.complete .ok)

/-- What an engine step needs of the latches and of NR not to be refused (U3). -/
def StepDefined (s : State) : Prop :=
  (s.phase = .key → s.curN = 16 ∨ s.curN = 32) ∧
    (s.phase = .crypt → s.curI.toNat ≠ s.curN.toNat → s.nr = 10 ∨ s.nr = 14)

/-- A step in such a state answers one of the outcomes. -/
theorem engineStep_of_defined {s : State} (d : StepDefined s) : ∃ t, engineStep s = .next t ∧ EngineOutcome s t := by
  obtain ⟨keyLength, roundCount⟩ := d
  cases h : s.phase with
  | idle => exact ⟨_, engineStep_idle h, .idle h⟩
  | key =>
    by_cases ha : PlatformAnswers s.cfg .read s.curSrc.toNat s.curN.toNat
    · exact ⟨_, engineStep_key_ok h (keyLength h) ha, .keyLoaded h (keyLength h) ha⟩
    · exact ⟨_, engineStep_key_fail h (keyLength h) ha, .keyRefused h _⟩
  | crypt =>
    by_cases hi : s.curI.toNat = s.curN.toNat
    · exact ⟨_, engineStep_crypt_done h hi, .batchDone h hi⟩
    have hn := roundCount h hi
    by_cases hr : PlatformAnswers s.cfg .read (blockAddr s.curSrc s.curI) 16
    · by_cases hw : PlatformAnswers s.cfg .write (blockAddr s.curDst s.curI) 16
      · exact ⟨_, engineStep_crypt_ok h hi hn hr hw, .blockStored h hi (blockTouched_engineWriteBytes (by rfl) _)⟩
      · exact ⟨_, engineStep_crypt_writeFail h hi hn hr hw, .writeRefused h hi (blockTouched_freeBytes (by rfl))⟩
    · exact ⟨_, engineStep_crypt_readFail h hi hn hr, .readRefused h _⟩
  | clr => exact ⟨_, engineStep_clr h, .cleared h⟩

/-- In every other state the step is refused (log entry 20). -/
theorem engineStep_key_undefined {s : State} (h : s.phase = .key) (hn : ¬ (s.curN = 16 ∨ s.curN = 32)) :
    engineStep s = .refused .contractViolation := by
  rw [engineStep, h]
  simp only [stepKey, if_neg hn]

theorem engineStep_crypt_undefined {s : State} (h : s.phase = .crypt) (hi : s.curI.toNat ≠ s.curN.toNat)
    (hn : ¬ (s.nr = 10 ∨ s.nr = 14)) : engineStep s = .refused .contractViolation := by
  rw [engineStep, h]
  simp only [stepCrypt, if_neg hi, if_neg hn]

theorem defined_of_engineStep {s t : State} (h : engineStep s = .next t) : StepDefined s := by
  refine ⟨fun hp => ?_, fun hp hi => ?_⟩ <;> by_contra hn
  · cases (engineStep_key_undefined hp hn).symm.trans h
  · cases (engineStep_crypt_undefined hp hi hn).symm.trans h

theorem engineStep_outcome {s t : State} (h : engineStep s = .next t) : EngineOutcome s t := by
  obtain ⟨u, hu, outcome⟩ := engineStep_of_defined (defined_of_engineStep h)
  cases hu.symm.trans h
  exact outcome

/-- An engine step leaves the pending transitions. -/
theorem EngineOutcome.script {s t : State} (h : EngineOutcome s t) : t.script = s.script := by
  cases h with
  | writeRefused _ _ ht | blockStored _ _ ht =>
    obtain ⟨script, -, -⟩ := ht.sameHostSide
    exact script
  | idle | keyLoaded | keyRefused | batchDone | readRefused | cleared => rfl

/-- An engine step changes no parameter and no operand register (R246). -/
theorem EngineOutcome.sameOperands {s t : State} (h : EngineOutcome s t) : SameOperands s t := by
  cases h with
  | writeRefused _ _ ht | blockStored _ _ ht => exact ht.sameOperands
  | idle | keyLoaded | keyRefused | batchDone | readRefused | cleared => exact ⟨rfl, rfl, rfl, rfl⟩

/-! ### One host event -/

/-- The states that a host event can answer from `s`, but for an engine step and a reset. -/
inductive HostOutcome (s : State) : State → Prop
  | unchanged : HostOutcome s s
  | errorRecorded (hb : s.busy = false) (e : ErrCode) : HostOutcome s (s.acceptError e)
  | keyStarted (hb : s.busy = false) (hl : keyLengthAccepted s.cfg s.len = true)
      (hr : inRange s.cfg s.src s.len.toNat = true) : HostOutcome s (s.start .setKey .key)
  | batchStarted (hb : s.busy = false) (op : Instr) (ho : op = .encryptN ∨ op = .decryptN) (hk : s.keyValid = true)
      (hs : inRange s.cfg s.src (bufferLength s.len) = true) (hd : inRange s.cfg s.dst (bufferLength s.len) = true) :
      HostOutcome s { s.start op .crypt with progress := 0 }
  | clearStarted (hb : s.busy = false) : HostOutcome s (s.start .clear .clr)
  | srcWritten (v : Word) : HostOutcome s { s with src := v }
  | dstWritten (v : Word) : HostOutcome s { s with dst := v }
  | lenWritten (v : Word) : HostOutcome s { s with len := v }
  | dataRead (d : HostData) : HostOutcome s { s with hostData := d }
  | polledBusy (d : HostData) : HostOutcome s { s with hostData := d, script := .engine :: .wait :: s.script }
  | bytesWritten (a : Nat) (bs : List Byte) : HostOutcome s (s.hostWriteBytes a bs)

theorem exec_outcome {i : Instr} {s t : State} (h : exec i s = .next t) : HostOutcome s t := by
  obtain ⟨-, e⟩ | ⟨hb, code, e⟩ | ⟨hb, rfl, hl, hr, e⟩ | ⟨hb, ho, hk, hs, hd, e⟩ | ⟨hb, rfl, e⟩ := exec_cases i s <;>
    cases e.symm.trans h
  · exact .unchanged
  · exact .errorRecorded hb code
  · exact .keyStarted hb hl hr
  · exact .batchStarted hb i ho hk hs hd
  · exact .clearStarted hb

theorem writeCmd_outcome {c : Word} {s t : State} (h : writeCmd c s = .next t) : HostOutcome s t := by
  cases hc : decode c with
  | error e =>
    rw [writeCmd_error hc] at h
    cases hb : s.busy <;> rw [hb] at h <;> cases h
    · exact .errorRecorded hb _
    · exact .unchanged
  | ok i =>
    rw [writeCmd, hc] at h
    exact exec_outcome h

theorem writeReg_outcome {r : HostReg} {v : Word} {s t : State} (h : writeReg r v s = .next t) : HostOutcome s t := by
  cases r with
  | cmd => exact writeCmd_outcome h
  | src => cases h; exact .srcWritten v
  | dst => cases h; exact .dstWritten v
  | len => cases h; exact .lenWritten v
  | name | caps | status | progress => cases h; exact .unchanged

/-- An event other than an engine step and a reset is one of the host. -/
theorem takeEvent_outcome {e : Event} {s t : State} (engine : e ≠ .engine) (reset : e ≠ .reset)
    (h : takeEvent e s = .next t) : HostOutcome s t := by
  cases e with
  | wr a w v =>
    rw [takeEvent, hostWr] at h
    split at h
    · exact writeReg_outcome h
    · cases h
  | rd a w =>
    rw [takeEvent, hostRd] at h
    split at h <;> cases h
    exact .dataRead _
  | mw a bs =>
    rw [takeEvent, hostMw] at h
    split_ifs at h
    cases h
    exact .bytesWritten a bs
  | mr a n =>
    rw [takeEvent, hostMr] at h
    split_ifs at h
    cases h
    exact .dataRead _
  | wait =>
    simp only [takeEvent, hostWait] at h
    split_ifs at h <;> cases h
    · exact .polledBusy _
    · exact .dataRead _
  | engine => exact absurd rfl engine
  | reset => exact absurd rfl reset

/-! ### One transition -/

/-- Does an engine step come next: one that is pending, or the one that the engine takes when nothing is (R242)? -/
def EngineNext (s : State) : Prop := s.script = [] ∨ ∃ rest, s.script = .engine :: rest

/-- Every transition is an engine step, a reset or a host event, from the state with the transition counter moved on. -/
theorem step_outcome {s t : State} (h : step s = .next t) : ∃ rest,
    (EngineNext s ∧ EngineOutcome (s.advance rest) t) ∨ (s.script = .reset :: rest ∧ t = (s.advance rest).resetEngine) ∨
      HostOutcome (s.advance rest) t := by
  cases hs : s.script with
  | nil =>
    rw [step_nil hs] at h
    exact ⟨[], .inl ⟨.inl hs, engineStep_outcome h⟩⟩
  | cons e rest =>
    rw [step_cons hs] at h
    refine ⟨rest, ?_⟩
    by_cases engine : e = .engine
    · subst engine
      exact .inl ⟨.inr ⟨rest, hs⟩, engineStep_outcome h⟩
    by_cases reset : e = .reset
    · subst reset
      cases h
      exact .inr (.inl ⟨rfl, rfl⟩)
    · exact .inr (.inr (takeEvent_outcome engine reset h))

end Sys2Proof.Machine
end

section
/-! The invariant (R31, R33, R38, R337): what each outcome of a transition leaves of it, and the statement that every transition
keeps it. -/

namespace Sys2Proof.Machine

/-! ### The parts of the invariant -/

/-- The part of the invariant about the key (R38): no key and every slot zero, or the schedule of one key. -/
def KeyStateValid (s : State) : Prop :=
  (s.keyValid = false → s.nr = 0 ∧ s.ek = zeroKeys ∧ s.dk = zeroKeys) ∧
    (s.keyValid = true → ∃ key, AesKey key ∧ HoldsKey s key)

theorem KeyStateValid.of_sameKey {s t : State} (h : KeyStateValid s) (same : SameKey s t) : KeyStateValid t := by
  obtain ⟨hv, hn, he, hd⟩ := same
  simpa only [KeyStateValid, HoldsKey, hv, hn, he, hd] using h

theorem State.Inv.keyStateValid {s : State} (h : s.Inv) : KeyStateValid s := ⟨h.no_key, h.key⟩

/-- The invariant looks at the parameters, the command and the key, at whether memory is canonical, and at races only while
idle. -/
theorem State.Inv.of_same {s t : State} (h : s.Inv) (cfg : t.cfg = s.cfg) (progress : t.progress = s.progress)
    (busy : t.busy = s.busy) (code : t.busy = true → t.errCode = .ok) (key : SameKey s t) (command : SameCommand s t)
    (wf : Memory.wf t.mem = true) (race : s.phase = .idle → NoRace t) : t.Inv := by
  obtain ⟨phase, op, src, dst, n, i⟩ := command
  have keyState := h.keyStateValid.of_sameKey key
  obtain ⟨valid, -, -, -⟩ := key
  constructor
  case busy_iff => rw [busy, phase]; exact h.busy_iff
  case busy_ok => exact code
  case mem_wf => exact wf
  case no_key => exact keyState.1
  case key => exact keyState.2
  case key_phase => rw [phase, op, src, n, cfg]; exact h.key_phase
  case crypt_phase => rw [phase, op, valid, src, dst, n, i, progress, cfg]; exact h.crypt_phase
  case clr_phase => rw [phase, op]; exact h.clr_phase
  case idle_no_race => rw [phase]; exact race

theorem State.Inv.advance {s : State} (h : s.Inv) (rest : List Event) : (s.advance rest).Inv :=
  h.of_same rfl rfl rfl h.busy_ok ⟨rfl, rfl, rfl, rfl⟩ ⟨rfl, rfl, rfl, rfl, rfl, rfl⟩ h.mem_wf h.idle_no_race

/-- An engine with BUSY = 0 is idle (R33). -/
theorem State.Inv.phase_idle {s : State} (h : s.Inv) (hb : s.busy = false) : s.phase = .idle := by
  by_contra hp
  simp [h.busy_iff.mpr hp] at hb

/-- The engine is idle only with BUSY = 0 (R33). -/
theorem State.Inv.busy_eq_false {s : State} (h : s.Inv) (hp : s.phase = .idle) : s.busy = false := by
  by_contra hb
  exact h.busy_iff.mp (by simpa using hb) hp

/-! ### After an engine step -/

/-- However a command ends, what is left to ask for is about the key and memory (R237). -/
theorem inv_complete {s : State} (wf : Memory.wf s.mem = true) (key : KeyStateValid s) {e : ErrCode} :
    (s.complete e).Inv := by
  constructor
  case mem_wf => exact wf
  case no_key => exact key.1
  case key => exact key.2
  all_goals simp [NoRace]

theorem State.Inv.complete_of_sameKey {s t : State} (h : s.Inv) (key : SameKey s t) (wf : Memory.wf t.mem = true) {e : ErrCode} :
    (t.complete e).Inv := inv_complete wf (h.keyStateValid.of_sameKey key)

theorem keyStateValid_commitKey (s : State) {key : List Byte} (h : AesKey key) : KeyStateValid (s.commitKey (keySched key)) :=
  ⟨by simp, fun _ => ⟨key, h, rfl, rfl, rfl⟩⟩

theorem keyStateValid_eraseKey (s : State) : KeyStateValid s.eraseKey := ⟨fun _ => ⟨rfl, rfl, rfl⟩, by simp⟩

/-- The bytes of an accepted key buffer are a key. -/
theorem aesKey_map_range' {n : Word} (hn : n = 16 ∨ n = 32) (a : Nat) (f : Nat → Byte) :
    AesKey ((List.range' a n.toNat).map f) := by
  obtain rfl | rfl := hn
  · exact .inl (by simp)
  · exact .inr (by simp)

/-- CUR_I has the width to count to CUR_N, and PROGRESS to hold what it counts (R34). -/
theorem toNat_next_block {i : BitVec 65} {n : Word} (h : i.toNat < n.toNat) :
    (i + 1).toNat = i.toNat + 1 ∧ ((i + 1).setWidth 64).toNat = i.toNat + 1 := by
  have bound := n.isLt
  constructor <;> bv_omega

/-- The block that a CRYPT step works on lies before the end of the batch. -/
theorem State.Inv.block_lt {s : State} (h : s.Inv) (hp : s.phase = .crypt) (hi : s.curI.toNat ≠ s.curN.toNat) :
    s.curI.toNat < s.curN.toNat := by
  obtain ⟨-, -, le, -⟩ := h.crypt_phase hp
  omega

/-- A stored block leaves the command running, one block further. -/
theorem State.Inv.blockDone {s t : State} (h : s.Inv) (hp : s.phase = .crypt) (hi : s.curI.toNat ≠ s.curN.toNat)
    (ht : BlockTouched s t) : t.blockDone.Inv := by
  have lt := h.block_lt hp hi
  have wf := ht.wf h.mem_wf
  obtain ⟨op, valid, -, -, src, dst⟩ := h.crypt_phase hp
  obtain ⟨next, progress⟩ := toNat_next_block lt
  rw [ht.frame]
  constructor
  case busy_iff => exact h.busy_iff
  case busy_ok => exact h.busy_ok
  case mem_wf => exact wf
  case no_key => exact h.no_key
  case key => exact h.key
  case crypt_phase => exact fun _ => ⟨op, valid, next.trans_le lt, progress.trans next.symm, src, dst⟩
  all_goals simp [hp]

theorem EngineOutcome.inv {s t : State} (h : s.Inv) (outcome : EngineOutcome s t) : t.Inv := by
  cases outcome with
  | idle => exact h
  | keyLoaded _ hn => exact inv_complete (by exact h.mem_wf) (keyStateValid_commitKey _ (aesKey_map_range' hn _ _))
  | keyRefused | batchDone | readRefused =>
    exact h.complete_of_sameKey (by exact ⟨rfl, rfl, rfl, rfl⟩) (by exact h.mem_wf)
  | writeRefused _ _ ht => exact h.complete_of_sameKey ht.sameKey (ht.wf h.mem_wf)
  | blockStored hp hi ht => exact h.blockDone hp hi ht
  | cleared => exact inv_complete (by exact h.mem_wf) (keyStateValid_eraseKey s)

/-! ### After a host event -/

theorem State.hostWriteBytes_noRace {s : State} (hp : s.phase = .idle) (race : NoRace s) (a : Nat) (bs : List Byte) :
    NoRace (s.hostWriteBytes a bs) := by
  rw [State.hostWriteBytes_idle hp]
  exact race

theorem HostOutcome.inv {s t : State} (h : s.Inv) (outcome : HostOutcome s t) : t.Inv := by
  cases outcome with
  | unchanged => exact h
  | errorRecorded hb e =>
    exact h.of_same rfl rfl rfl (by simp [hb]) ⟨rfl, rfl, rfl, rfl⟩ ⟨rfl, rfl, rfl, rfl, rfl, rfl⟩ h.mem_wf h.idle_no_race
  | keyStarted _ hl hr =>
    constructor
    case mem_wf => exact h.mem_wf
    case no_key => exact h.no_key
    case key => exact h.key
    case key_phase => exact fun _ => ⟨rfl, hl, hr⟩
    all_goals simp
  | batchStarted _ op ho hk hs hd =>
    constructor
    case mem_wf => exact h.mem_wf
    case no_key => exact h.no_key
    case key => exact h.key
    case crypt_phase => exact fun _ => ⟨ho, hk, Nat.zero_le _, rfl, hs, hd⟩
    all_goals simp
  | clearStarted =>
    constructor
    case mem_wf => exact h.mem_wf
    case no_key => exact h.no_key
    case key => exact h.key
    all_goals simp
  | srcWritten | dstWritten | lenWritten | dataRead | polledBusy =>
    exact h.of_same rfl rfl rfl h.busy_ok ⟨rfl, rfl, rfl, rfl⟩ ⟨rfl, rfl, rfl, rfl, rfl, rfl⟩ h.mem_wf h.idle_no_race
  | bytesWritten a bs =>
    refine h.of_same ?_ ?_ ?_ ?_ ?_ ?_ (State.hostWriteBytes_wf h.mem_wf a bs) fun hp =>
      State.hostWriteBytes_noRace hp (h.idle_no_race hp) a bs
    case refine_4 => simpa using h.busy_ok
    all_goals simp [SameKey, SameCommand]

/-! ### After a reset -/

theorem inv_resetOf (c : Config) {m : Memory} (l : List Event) (wf : Memory.wf m = true) : (State.resetOf c m l).Inv := by
  constructor
  case mem_wf => exact wf
  all_goals simp [State.resetOf, NoRace]

/-- Settles O25: nothing runs, no key is loaded, and no byte has been accessed. -/
theorem resetSatisfiesTheInvariant : Obligations.ResetSatisfiesTheInvariant :=
  ⟨inv_resetOf _ _ rfl, fun c _ l wf => inv_resetOf c l wf⟩

theorem State.resetEngine_mem (s : State) :
    s.resetEngine.mem = if s.blockPending then (s.freeBytes (blockAddr s.curDst s.curI) 16).mem else s.mem :=
  apply_ite State.mem _ _ _

theorem State.resetEngine_wf {s : State} (wf : Memory.wf s.mem = true) : Memory.wf s.resetEngine.mem = true := by
  rw [State.resetEngine_mem]
  split
  · exact State.freeBytes_wf wf _ _
  · exact wf

theorem inv_resetEngine {s : State} (wf : Memory.wf s.mem = true) : s.resetEngine.Inv :=
  have reset := inv_resetOf s.cfg s.script (State.resetEngine_wf wf)
  reset.of_same rfl rfl rfl reset.busy_ok ⟨rfl, rfl, rfl, rfl⟩ ⟨rfl, rfl, rfl, rfl, rfl, rfl⟩ reset.mem_wf reset.idle_no_race

/-- Settles O26: every transition moves the counter on, which the invariant does not look at, and then has an outcome that keeps
it. -/
theorem everyStepKeepsTheInvariant : Obligations.EveryStepKeepsTheInvariant := by
  intro s t h hst
  obtain ⟨rest, ⟨-, outcome⟩ | ⟨-, rfl⟩ | outcome⟩ := step_outcome hst
  · exact outcome.inv (h.advance rest)
  · exact inv_resetEngine h.mem_wf
  · exact outcome.inv (h.advance rest)

end Sys2Proof.Machine
end

section
/-! Which transitions change the key (R32), and what an engine step writes (R246). -/

namespace Sys2Proof.Machine

/-! ### The key -/

theorem HostOutcome.sameKey {s t : State} (h : HostOutcome s t) : SameKey s t := by
  cases h <;> simp [SameKey]

/-- Settles O27: of the outcomes of an engine step, one loads a key and one erases it, and a reset erases it; no other outcome
touches the key. -/
theorem onlySetKeyClearAndResetChangeTheKey : Obligations.OnlySetKeyClearAndResetChangeTheKey := by
  intro s t hst changed
  obtain ⟨rest, ⟨next, outcome⟩ | ⟨hs, rfl⟩ | outcome⟩ := step_outcome hst
  · refine .inl ⟨next, ?_⟩
    cases outcome with
    | keyLoaded hp => exact .inl ⟨hp, rfl, rfl, rfl⟩
    | cleared hp => exact .inr ⟨hp, rfl⟩
    | writeRefused _ _ ht | blockStored _ _ ht => exact absurd ht.sameKey changed
    | idle | keyRefused | batchDone | readRefused => exact absurd (by exact ⟨rfl, rfl, rfl, rfl⟩) changed
  · exact .inr ⟨⟨rest, hs⟩, rfl⟩
  · exact absurd outcome.sameKey changed

/-! ### Memory -/

/-- Off a range is off every part of it. -/
theorem SameMemoryOutside.mono {s t : State} {a n b m : Nat} (h : SameMemoryOutside s t a n) (lo : b ≤ a)
    (hi : a + n ≤ b + m) : SameMemoryOutside s t b m :=
  fun x hx => h x (by omega)

/-- An engine step changes at most the 16 bytes of block CUR_I of the output buffer. -/
theorem EngineOutcome.sameMemoryOutside {s t : State} (wf : Memory.wf s.mem = true) (h : EngineOutcome s t) :
    (SameMemory s t) ∨ (s.phase = .crypt ∧ s.curI.toNat ≠ s.curN.toNat ∧
      SameMemoryOutside s t (blockAddr s.curDst s.curI) 16) := by
  cases h with
  | idle | keyLoaded | keyRefused | batchDone | readRefused | cleared => exact .inl fun _ => rfl
  | writeRefused hp hi ht | blockStored hp hi ht => exact .inr ⟨hp, hi, ht.outside wf⟩

/-- Settles O28: the block that an engine step may write lies in the output buffer, and the five registers are parameters and
operands. -/
theorem engineWritesOnlyTheOutputBuffer : Obligations.EngineWritesOnlyTheOutputBuffer := by
  intro s t h hst
  have outcome := engineStep_outcome hst
  refine ⟨fun hp => ?_, fun hp => ?_, ?_⟩
  · obtain same | ⟨hc, -⟩ := outcome.sameMemoryOutside h.mem_wf
    · exact same
    · exact absurd hc hp
  · obtain same | ⟨-, hi, outside⟩ := outcome.sameMemoryOutside h.mem_wf
    · exact fun x _ => same x
    · have lt := h.block_lt hp hi
      exact outside.mono (by rw [blockAddr]; omega) (by rw [blockAddr]; omega)
  · obtain ⟨cfg, src, dst, len⟩ := outcome.sameOperands
    rintro r (rfl | rfl | rfl | rfl | rfl) <;> simp only [readReg, cfg, src, dst, len]

end Sys2Proof.Machine
end

section
/-! The stops of the machine (R53, R241): an engine step answers from every state of the invariant, and which host events are refused
or fault. -/

namespace Sys2Proof.Machine

/-! ### The loaded round count -/

theorem toNat_nr_of_holdsKey {s : State} {key : List Byte} (h : AesKey key) (hk : HoldsKey s key) :
    s.nr.toNat = (keySched key).nr := by
  obtain ⟨nr, -, -⟩ := hk
  obtain ⟨-, lt⟩ := nr_bounds h
  rw [nr, BitVec.toNat_ofNat, Nat.mod_eq_of_lt]
  rw [keySched_nr h]
  omega

theorem nr_of_holdsKey {s : State} {key : List Byte} (h : AesKey key) (hk : HoldsKey s key) : s.nr = 10 ∨ s.nr = 14 := by
  obtain ⟨nr, -, -⟩ := hk
  rw [nr, keySched_nr h]
  obtain len | len := h
  · rw [nr_of_16 len]
    exact .inl rfl
  · rw [nr_of_32 len]
    exact .inr rfl

theorem eq_16_or_32_of_keyLengthAccepted {c : Config} {len : Word} (h : keyLengthAccepted c len = true) : len = 16 ∨ len = 32 :=
  ((keyLengthAccepted_iff c len).mp h).imp And.left And.left

/-- From a state of the invariant no engine step is refused (log entry 20). -/
theorem State.Inv.stepDefined {s : State} (h : s.Inv) : StepDefined s := by
  refine ⟨fun hp => ?_, fun hp _ => ?_⟩
  · obtain ⟨-, accepted, -⟩ := h.key_phase hp
    exact eq_16_or_32_of_keyLengthAccepted accepted
  · obtain ⟨-, valid, -⟩ := h.crypt_phase hp
    obtain ⟨key, aes, holds⟩ := h.key valid
    exact nr_of_holdsKey aes holds

/-! ### Stops -/

theorem exec_answers (i : Instr) (s : State) : ∃ t, exec i s = .next t := by
  obtain ⟨-, e⟩ | ⟨-, code, e⟩ | ⟨-, -, -, -, e⟩ | ⟨-, -, -, -, -, e⟩ | ⟨-, -, e⟩ := exec_cases i s <;> exact ⟨_, e⟩

theorem writeReg_answers (r : HostReg) (v : Word) (s : State) : ∃ t, writeReg r v s = .next t := by
  cases r with
  | cmd =>
    cases hc : decode v with
    | error e => exact ⟨_, writeCmd_error hc s⟩
    | ok i =>
      rw [writeReg_cmd, writeCmd, hc]
      exact exec_answers i s
  | name | caps | status | src | dst | len | progress => exact ⟨_, rfl⟩

/-- R241, U7: the host events that are refused. -/
def MalformedAccess (c : Config) : Event → Prop
  | .wr a w _ => accessedReg c a w = none
  | .rd a w => accessedReg c a w = none
  | .mw a bs => touchesWindow c a bs.length = true
  | .mr a n => touchesWindow c a n = true
  | .engine => False
  | .wait => False
  | .reset => False

/-- R53: the host events that fault. -/
def BeyondMemory (c : Config) : Event → Prop
  | .mw a bs => touchesWindow c a bs.length = false ∧ 0 < bs.length ∧ 2 ^ c.addrBits < a + bs.length
  | .mr a n => touchesWindow c a n = false ∧ 0 < n ∧ 2 ^ c.addrBits < a + n
  | .wr _ _ _ => False
  | .rd _ _ => False
  | .engine => False
  | .wait => False
  | .reset => False

/-- The events that stop, in a state from which an engine step answers. -/
theorem takeEvent_stops {s : State} (h : ∃ t, engineStep s = .next t) (e : Event) :
    (∀ r, takeEvent e s = .refused r ↔ r = .malformedRegisterAccess ∧ MalformedAccess s.cfg e) ∧
      ∀ f, takeEvent e s = .fault f ↔ f = .hostAddressOutside ∧ BeyondMemory s.cfg e := by
  cases e with
  | wr a w v =>
    cases hr : accessedReg s.cfg a w with
    | none => simp [takeEvent, hostWr, hr, MalformedAccess, BeyondMemory, eq_comm]
    | some r =>
      obtain ⟨t, ht⟩ := writeReg_answers r v s
      simp [takeEvent, hostWr, hr, ht, MalformedAccess, BeyondMemory]
  | rd a w => cases hr : accessedReg s.cfg a w <;> simp [takeEvent, hostRd, hr, MalformedAccess, BeyondMemory, eq_comm]
  | mw a bs =>
    cases hw : touchesWindow s.cfg a bs.length with
    | true => simp [takeEvent, hostMw, MalformedAccess, BeyondMemory, hw, eq_comm]
    | false =>
      by_cases hb : 0 < bs.length ∧ 2 ^ s.cfg.addrBits < a + bs.length <;>
        simp [takeEvent, hostMw, MalformedAccess, BeyondMemory, hw, hb]
  | mr a n =>
    cases hw : touchesWindow s.cfg a n with
    | true => simp [takeEvent, hostMr, MalformedAccess, BeyondMemory, hw, eq_comm]
    | false =>
      by_cases hb : 0 < n ∧ 2 ^ s.cfg.addrBits < a + n <;>
        simp [takeEvent, hostMr, MalformedAccess, BeyondMemory, hw, hb]
  | engine =>
    obtain ⟨t, ht⟩ := h
    simp [takeEvent, ht, MalformedAccess, BeyondMemory]
  | wait =>
    simp only [takeEvent, hostWait, MalformedAccess, BeyondMemory]
    split <;> simp
  | reset => simp [takeEvent, MalformedAccess, BeyondMemory]

theorem malformedAccess_iff (c : Config) (e : Event) : MalformedAccess c e ↔
    (∃ a w v, e = .wr a w v ∧ accessedReg c a w = none) ∨ (∃ a w, e = .rd a w ∧ accessedReg c a w = none) ∨
      (∃ a bs, e = .mw a bs ∧ touchesWindow c a bs.length = true) ∨ ∃ a n, e = .mr a n ∧ touchesWindow c a n = true := by
  cases e <;> simp [MalformedAccess]

theorem beyondMemory_iff (c : Config) (e : Event) : BeyondMemory c e ↔
    (∃ a bs, e = .mw a bs ∧ touchesWindow c a bs.length = false ∧ 0 < bs.length ∧ 2 ^ c.addrBits < a + bs.length) ∨
      ∃ a n, e = .mr a n ∧ touchesWindow c a n = false ∧ 0 < n ∧ 2 ^ c.addrBits < a + n := by
  cases e <;> simp [BeyondMemory]

theorem State.Inv.engineStep_answers {s : State} (h : s.Inv) : ∃ t, engineStep s = .next t :=
  (engineStep_of_defined h.stepDefined).imp fun _ => And.left

/-- Settles O29: an engine step answers from every state of the invariant, so a step stops exactly on a pending event that
stops. -/
theorem onlyHostAccessesStopTheMachine : Obligations.OnlyHostAccessesStopTheMachine := by
  intro s h
  have stops : (∀ r, step s = .refused r ↔
        r = .malformedRegisterAccess ∧ ∃ e rest, s.script = e :: rest ∧ MalformedAccess s.cfg e) ∧
      ∀ f, step s = .fault f ↔ f = .hostAddressOutside ∧ ∃ e rest, s.script = e :: rest ∧ BeyondMemory s.cfg e := by
    cases hs : s.script with
    | nil =>
      obtain ⟨t, ht⟩ := (h.advance []).engineStep_answers
      simp [step_nil hs, ht]
    | cons e rest =>
      obtain ⟨refused, fault⟩ := takeEvent_stops (h.advance rest).engineStep_answers e
      simp [step_cons hs, refused, fault]
  obtain ⟨refused, fault⟩ := stops
  refine ⟨h.engineStep_answers, fun r => ?_, fun f => ?_, accessedReg_eq_none_iff _, touchesWindow_iff _⟩
  · simpa only [malformedAccess_iff] using refused r
  · simpa only [beyondMemory_iff] using fault f

end Sys2Proof.Machine
end

section
/-! Every command and every poll ends (R78, R242, R340): each engine step of a running command brings its end closer. -/

namespace Sys2Proof.Machine

/-- An upper bound of the engine steps that a running command has left (R340): for a batch the blocks left, and the step that
completes. -/
def State.stepsLeft (s : State) : Nat :=
  match s.phase with
  | .idle => 0
  | .key => 1
  | .crypt => s.curN.toNat - s.curI.toNat + 1
  | .clr => 1

theorem State.stepsLeft_idle {s : State} (h : s.phase = .idle) : s.stepsLeft = 0 := by rw [State.stepsLeft, h]

theorem State.stepsLeft_crypt {s : State} (h : s.phase = .crypt) : s.stepsLeft = s.curN.toNat - s.curI.toNat + 1 := by
  rw [State.stepsLeft, h]

theorem State.stepsLeft_pos {s : State} (h : s.phase ≠ .idle) : 0 < s.stepsLeft := by
  rw [State.stepsLeft]
  cases hp : s.phase <;> simp_all

theorem State.stepsLeft_le (s : State) : s.stepsLeft ≤ s.curN.toNat + 1 := by
  rw [State.stepsLeft]
  split <;> omega

theorem State.stepsLeft_le_one {s : State} (h : s.phase ≠ .crypt) : s.stepsLeft ≤ 1 := by
  rw [State.stepsLeft]
  cases hp : s.phase <;> simp_all

/-- Every engine step of a running command brings its end closer: it ends the command, or it is a block done. -/
theorem EngineOutcome.stepsLeft_lt {s t : State} (h : s.Inv) (running : s.phase ≠ .idle) (outcome : EngineOutcome s t) :
    t.stepsLeft < s.stepsLeft := by
  cases outcome with
  | idle hp => exact absurd hp running
  | keyLoaded | keyRefused | batchDone | readRefused | writeRefused | cleared =>
    rw [State.stepsLeft_idle (State.complete_phase _ _)]
    exact State.stepsLeft_pos running
  | blockStored hp hi ht =>
    have lt := h.block_lt hp hi
    obtain ⟨next, -⟩ := toNat_next_block lt
    rw [ht.frame, State.stepsLeft_crypt hp, State.stepsLeft_crypt (by exact hp), State.blockDone_curN, State.blockDone_curI]
    simp only [next]
    omega

/-- From a state of the invariant some number of engine steps, no more than those left, ends the command. -/
theorem State.Inv.engineSteps_reach_idle {s : State} (h : s.Inv) :
    ∃ n t, n ≤ s.stepsLeft ∧ engineSteps n s = .next t ∧ t.Inv ∧ t.phase = .idle := by
  induction left : s.stepsLeft using Nat.strong_induction_on generalizing s with
  | _ m ih =>
    by_cases hp : s.phase = .idle
    · exact ⟨0, s, Nat.zero_le _, rfl, h, hp⟩
    obtain ⟨t, ht, outcome⟩ := engineStep_of_defined h.stepDefined
    have closer := outcome.stepsLeft_lt h hp
    obtain ⟨n, u, hn, hu, inv, idle⟩ := ih t.stepsLeft (left ▸ closer) (outcome.inv h) rfl
    exact ⟨n + 1, u, by omega, by rw [engineSteps, ht]; exact hu, inv, idle⟩

/-- Settles O30: the steps left are at most CUR_N + 1, and one for SET_KEY and CLEAR, which are not idle before it. -/
theorem everyCommandEnds : Obligations.EveryCommandEnds := by
  intro s h running
  obtain ⟨n, t, hn, ht, inv, idle⟩ := h.engineSteps_reach_idle
  refine ⟨n, t, ht, idle, inv.busy_eq_false idle, hn.trans s.stepsLeft_le, s.curN.isLt, fun other => ?_⟩
  have positive : n ≠ 0 := by
    rintro rfl
    cases ht
    exact running idle
  have atMostOne := hn.trans (State.stepsLeft_le_one other)
  omega

/-- Bit 0 of STATUS is BUSY (R26). -/
theorem getLsbD_statusWord_zero (s : State) : (statusWord s).getLsbD 0 = s.busy := by
  cases hb : s.busy <;> simp [statusWord, flagBit, hb]

theorem step_wait_of_idle {s : State} {rest : List Event} (hs : s.script = .wait :: rest) (hb : s.busy = false) :
    step s = .next { s.advance rest with hostData := .reg (readReg s .status) } := by
  rw [step_cons hs, takeEvent, hostWait, readReg_advance]
  simp only [readReg_status, getLsbD_statusWord_zero, hb, Bool.false_eq_true, if_false]

theorem step_wait_of_busy {s : State} {rest : List Event} (hs : s.script = .wait :: rest) (hb : s.busy = true) :
    step s = .next
      { s.advance rest with hostData := .reg (readReg s .status), script := .engine :: .wait :: rest } := by
  rw [step_cons hs, takeEvent, hostWait, readReg_advance]
  simp only [readReg_status, getLsbD_statusWord_zero, hb, if_true, State.advance_script]

theorem run_succ_of_step {M : Host.Core} {s t : M.State} (h : M.step s = .next t) (k : Nat) : M.run (k + 1) s = M.run k t := by
  rw [Host.Core.run, h]

/-- A poll that reads BUSY = 1 is followed by an engine step, which brings the end closer, and the next poll. -/
theorem run_wait_of_busy {s : State} {rest : List Event} (h : s.Inv) (hs : s.script = .wait :: rest) (hb : s.busy = true) :
    ∃ t : State, (∀ k, Sys2Proof.core.run (k + 2) s = Sys2Proof.core.run k t) ∧ t.Inv ∧ t.script = .wait :: rest ∧
      t.stepsLeft < s.stepsLeft := by
  have polled := step_wait_of_busy hs hb
  generalize hp : { s.advance rest with hostData := .reg (readReg s .status), script := .engine :: .wait :: rest } = p at polled
  have inv : p.Inv := everyStepKeepsTheInvariant s p h polled
  have next := inv.advance (.wait :: rest)
  obtain ⟨t, ht, outcome⟩ := engineStep_of_defined next.stepDefined
  have stepped : step p = .next t := by
    rw [step_cons (show p.script = .engine :: .wait :: rest by rw [← hp]), takeEvent, ht]
  refine ⟨t, fun k => (run_succ_of_step (M := Sys2Proof.core) polled (k + 1)).trans
    (run_succ_of_step (M := Sys2Proof.core) stepped k), outcome.inv next, outcome.script, ?_⟩
  · have left : (p.advance (.wait :: rest)).stepsLeft = s.stepsLeft := by rw [← hp]; rfl
    rw [← left]
    refine outcome.stepsLeft_lt next ?_
    rw [← hp]
    exact h.busy_iff.mp hb

/-- Settles O31: as long as a poll reads BUSY = 1, the engine step before the next one brings the end closer. -/
theorem pollingEnds : Obligations.PollingEnds := by
  intro s rest h hs
  induction left : s.stepsLeft using Nat.strong_induction_on generalizing s with
  | _ m ih =>
    cases hb : s.busy with
    | false => exact ⟨1, _, run_succ_of_step (M := Sys2Proof.core) (step_wait_of_idle hs hb) 0, rfl, hb, rfl⟩
    | true =>
      obtain ⟨t, run, inv, script, closer⟩ := run_wait_of_busy h hs hb
      obtain ⟨k, u, hu, done⟩ := ih t.stepsLeft (left ▸ closer) t inv script rfl
      exact ⟨k + 2, u, (run k).trans hu, done⟩

end Sys2Proof.Machine
end

section
/-! Command words and registers: a write to CMD runs the decoded command (R230), the fields of STATUS (R26), the registers that
ignore writes (R240) and the accesses that are refused (R241). -/

namespace Sys2Proof.Machine

/-! ### Command words -/

/-- Settles O2: a command has no field to check, and the decoder inverts the encoder. -/
theorem decodeOfEncodeIsTheCommand : Obligations.DecodeOfEncodeIsTheCommand :=
  fun i c => ⟨by cases i <;> rfl, decode_eq_ok_iff c i⟩

/-- Settles O3: seven words, decoded. -/
theorem tableRowWordsDecode : Obligations.TableRowWordsDecode := by
  unfold Obligations.TableRowWordsDecode
  decide

theorem decode_tableWord {w : Nat} {i : Instr} (h : decodeTableWord 64 w = some i) : decode (tableWord 64 w) = .ok i := by
  rw [decodeTableWord, if_pos (le_refl 64)] at h
  cases hd : decode (tableWord 64 w) with
  | error e => simp [hd] at h
  | ok j => simpa [hd] using h

theorem step_command {s : State} {c : Word} {i : Instr} {rest : List Event} (hs : s.script = wrReg s.cfg.regBase .cmd c :: rest)
    (hc : decode c = .ok i) : step s = exec i (s.advance rest) := by
  rw [step_wrReg hs, writeReg_cmd, writeCmd, hc]

theorem exec_advance (i : Instr) {s t : State} (rest : List Event) (h : exec i s = .next t) :
    exec i (s.advance rest) = .next (t.advance rest) := by
  have accept (op : Instr) (h : acceptCrypt op s = .next t) : acceptCrypt op (s.advance rest) = .next (t.advance rest) := by
    simp only [acceptCrypt, State.advance_busy, State.advance_keyValid, State.advance_cfg, State.advance_src,
      State.advance_dst, State.advance_len] at h ⊢
    split_ifs at h <;> cases h <;> simp only [*, if_true] <;> rfl
  cases i with
  | setKey =>
    simp only [exec, execSetKey, State.advance_busy, State.advance_cfg, State.advance_src, State.advance_len] at h ⊢
    split_ifs at h <;> cases h <;> simp only [*, if_true] <;> rfl
  | encryptN => exact accept _ h
  | decryptN => exact accept _ h
  | clear =>
    simp only [exec, execClear, State.advance_busy] at h ⊢
    split_ifs at h <;> cases h <;> simp only [*, if_true]
    rfl

/-- Settles O4: a pending write reaches CMD and is decoded; the rest is which transition comes next, and that acceptance looks at
neither the pending list nor the counter. -/
theorem commandWriteRunsTheDecodedCommand : Obligations.CommandWriteRunsTheDecodedCommand :=
  ⟨fun _ _ _ _ hs hc => step_command hs hc,
    fun s _ _ hw => step_command (s := s.withFetchWord 64 _) rfl (decode_tableWord hw),
    fun _ hs => step_nil hs, fun _ _ hs => step_cons hs, fun _ hp => engineStep_idle hp, fun i _ _ rest h => exec_advance i rest h⟩

/-! ### Registers -/

/-- Settles O34: none of the four has a case that stores. -/
theorem readOnlyRegistersIgnoreWrites : Obligations.ReadOnlyRegistersIgnoreWrites := by
  rintro s v r rest (rfl | rfl | rfl | rfl) hs <;> rw [step_wrReg hs, writeReg]

/-- A field put above the bits in use adds its value at its place. -/
theorem toNat_or_shiftLeft {low : Word} {w k : Nat} (field : BitVec w) (fits : w + k ≤ 64) (below : low.toNat < 2 ^ k) :
    (low ||| field.setWidth 64 <<< k).toNat = low.toNat + 2 ^ k * field.toNat := by
  have small : field.toNat < 2 ^ w := field.isLt
  have room : field.toNat <<< k < 2 ^ 64 := by
    rw [Nat.shiftLeft_eq]
    calc field.toNat * 2 ^ k < 2 ^ w * 2 ^ k := Nat.mul_lt_mul_of_pos_right small (by positivity)
      _ = 2 ^ (w + k) := (pow_add 2 w k).symm
      _ ≤ 2 ^ 64 := Nat.pow_le_pow_right (by decide) fits
  have width : field.toNat < 2 ^ 64 := small.trans_le (Nat.pow_le_pow_right (by decide) (by omega))
  rw [BitVec.toNat_or, BitVec.toNat_shiftLeft, BitVec.toNat_setWidth, Nat.mod_eq_of_lt width, Nat.mod_eq_of_lt room, Nat.or_comm,
    ← Nat.shiftLeft_add_eq_or_of_lt below, Nat.shiftLeft_eq, Nat.mul_comm, Nat.add_comm]

/-- STATUS as the sum of its fields, each at its place (R26). -/
theorem toNat_statusWord (s : State) : (statusWord s).toNat =
    s.busy.toNat + 2 * s.keyValid.toNat + 256 * s.errCode.code.toNat + 65536 * s.nr.toNat := by
  have busy := s.busy.toNat_le
  have valid := s.keyValid.toNat_le
  have code := s.errCode.code.isLt
  have bit : (flagBit s.busy).toNat = s.busy.toNat := by cases s.busy <;> rfl
  have flags : (flagBit s.busy ||| flagBit s.keyValid <<< 1).toNat = s.busy.toNat + 2 * s.keyValid.toNat := by
    rw [flagBit, flagBit, toNat_or_shiftLeft _ (by decide) (by rw [← flagBit, bit]; omega), ← flagBit, bit, BitVec.toNat_ofBool]
    rfl
  have low : (flagBit s.busy ||| flagBit s.keyValid <<< 1 ||| s.errCode.code.setWidth 64 <<< 8).toNat =
      s.busy.toNat + 2 * s.keyValid.toNat + 256 * s.errCode.code.toNat := by
    rw [toNat_or_shiftLeft _ (by decide) (by rw [flags]; omega), flags]
    rfl
  rw [statusWord, toNat_or_shiftLeft _ (by decide) (by rw [low]; omega), low]
  rfl

/-- Settles O36: a field is the quotient of STATUS by its place, up to its width. -/
theorem statusFieldsStandWhereTheTablePutsThem : Obligations.StatusFieldsStandWhereTheTablePutsThem := by
  intro s
  have busy := s.busy.toNat_le
  have valid := s.keyValid.toNat_le
  have code := s.errCode.code.isLt
  have nr := s.nr.isLt
  refine ⟨getLsbD_statusWord_zero s, ?valid, ?_, ?_, ?_, ?_, ?_⟩
  case valid => cases hb : s.busy <;> cases hv : s.keyValid <;> simp [statusWord, flagBit, hb, hv]
  all_goals
    apply BitVec.eq_of_toNat_eq
    simp only [BitVec.extractLsb'_toNat, readReg_status, toNat_statusWord, Nat.shiftRight_eq_div_pow, BitVec.ofNat_eq_ofNat,
      BitVec.toNat_ofNat]
    omega

/-- An address of the window that is not a multiple of 8 from its base, or a width other than 8, reaches no register. -/
theorem accessedReg_of_malformed {c : Config} {a w : Nat} (h : w ≠ 8 ∨ (a - c.regBase) % 8 ≠ 0) : accessedReg c a w = none := by
  rw [accessedReg_eq_none_iff]
  rintro ⟨width, r, rfl⟩
  obtain hw | ho := h
  · exact hw width
  · apply ho
    rw [Nat.add_sub_cancel_left]
    cases r <;> rfl

/-- Settles O38: such a register access reaches no register, and such a memory access touches the window at `x`. -/
theorem malformedRegisterAccessesAreRefused : Obligations.MalformedRegisterAccessesAreRefused := by
  refine ⟨fun s a w v rest _ _ bad => ?_, fun s a bs n x rest lo hi ha => ?_⟩
  · have none := accessedReg_of_malformed (c := s.cfg) bad
    constructor <;> intro hs <;> rw [step_cons hs, takeEvent]
    · rw [hostWr, State.advance_cfg, none]
    · rw [hostRd, State.advance_cfg, none]
  · have touches {m : Nat} (hx : x < a + m) : touchesWindow s.cfg a m = true :=
      (touchesWindow_iff _ _ _).mpr ⟨x, ha, hx, lo, hi⟩
    constructor <;> intro hx hs <;> rw [step_cons hs, takeEvent]
    · rw [hostMw, State.advance_cfg, if_pos (touches hx)]
    · rw [hostMr, State.advance_cfg, if_pos (touches hx)]

/-! ### Reset -/

theorem statusWord_eq_zero {s : State} (hb : s.busy = false) (hk : s.keyValid = false) (he : s.errCode = .ok) (hn : s.nr = 0) :
    statusWord s = 0 := by
  rw [statusWord, hb, hk, he, hn]
  decide

theorem slot_zeroKeys (j : Nat) : slot zeroKeys j = zero := by
  rw [slot, zeroKeys]
  by_cases h : j < 15 <;> simp [h]

/-- Settles O24: the reset values are constants, and STATUS is assembled from those of its fields. -/
theorem resetLeavesTheEngineIdleAndEmpty : Obligations.ResetLeavesTheEngineIdleAndEmpty :=
  ⟨rfl, fun _ _ _ => ⟨rfl, rfl, rfl, rfl, rfl, rfl, rfl, rfl, rfl, fun j => ⟨slot_zeroKeys j, slot_zeroKeys j⟩,
    statusWord_eq_zero rfl rfl rfl rfl, rfl, rfl⟩⟩

/-- Settles O41: memory is touched only where a block is pending, which is in phase CRYPT with CUR_I other than CUR_N. -/
theorem resetAbandonsTheRunningCommand : Obligations.ResetAbandonsTheRunningCommand := by
  intro s rest wf hs
  have step : step s = .next (s.advance rest).resetEngine := by rw [step_cons hs, takeEvent]
  refine ⟨_, step, rfl, rfl, rfl, rfl, rfl, rfl, rfl, rfl, rfl, fun j => ⟨slot_zeroKeys j, slot_zeroKeys j⟩, rfl, rfl,
    fun x hx => ?_, fun none x => ?_⟩
  · rw [State.resetEngine_mem]
    split
    · exact State.freeBytes_outside (by exact wf) _ _ hx
    · rfl
  · have idle : (s.advance rest).blockPending = false := by
      rw [State.blockPending, State.advance_phase]
      cases hp : s.phase <;> simp_all
    rw [State.resetEngine_mem, idle]
    rfl

end Sys2Proof.Machine
end

section
/-! Single commands: their acceptance (R230), and the engine steps of SET_KEY (R232), CLEAR (R235) and, for one block or none,
ENCRYPT_N and DECRYPT_N (R236, R244, R306). -/

namespace Sys2Proof.Machine

/-! ### Acceptance -/

theorem exec_setKey_of_inRange {s : State} (hb : s.busy = false) (hl : keyLengthAccepted s.cfg s.len = true)
    (hr : s.src.toNat + s.len.toNat ≤ 2 ^ s.cfg.addrBits) : exec .setKey s = .next (s.start .setKey .key) := by
  rw [exec_setKey_of_lengthAccepted hb hl, (inRange_iff _ _ _).mpr (.inr hr), if_pos rfl]

theorem acceptCrypt_of_inRange (op : Instr) {s : State} (hb : s.busy = false) (hk : s.keyValid = true)
    (hr : s.len = 0 ∨ (s.src.toNat + 16 * s.len.toNat ≤ 2 ^ s.cfg.addrBits ∧
      s.dst.toNat + 16 * s.len.toNat ≤ 2 ^ s.cfg.addrBits)) :
    acceptCrypt op s = .next { s.start op .crypt with progress := 0 } := by
  have both : inRange s.cfg s.src (bufferLength s.len) = true ∧ inRange s.cfg s.dst (bufferLength s.len) = true := by
    rw [inRange_iff, inRange_iff]
    obtain empty | ⟨src, dst⟩ := hr
    · rw [empty]
      exact ⟨.inl rfl, .inl rfl⟩
    · exact ⟨.inr src, .inr dst⟩
  obtain ⟨src, dst⟩ := both
  simp [acceptCrypt, hb, hk, src, dst]

theorem exec_clear {s : State} (hb : s.busy = false) : exec .clear s = .next (s.start .clear .clr) := by
  simp [exec, execClear, hb]

/-- Settles O7: both checks are passed. -/
theorem setKeyIsAccepted : Obligations.SetKeyIsAccepted :=
  fun _ hb hl hr => exec_setKey_of_inRange hb ((keyLengthAccepted_iff _ _).mpr hl) hr

/-- Settles O9: all checks are passed, which the two commands share. -/
theorem cryptCommandsAreAccepted : Obligations.CryptCommandsAreAccepted :=
  fun _ hb hk hr => ⟨acceptCrypt_of_inRange .encryptN hb hk hr, acceptCrypt_of_inRange .decryptN hb hk hr⟩

/-- Settles O12: CLEAR has no check but that of BUSY. -/
theorem clearIsAccepted : Obligations.ClearIsAccepted := fun _ hb => exec_clear hb

/-! ### SET_KEY and CLEAR -/

/-- Where the host has written nothing, the bytes that the engine reads are those in memory. -/
theorem map_engineByte_of_noRace {s : State} (h : s.hostWrote = []) (a n : Nat) :
    (List.range' a n).map s.engineByte = s.mem.readBytes a n :=
  List.map_congr_left fun x _ => State.engineByte_of_recorded_nil (by rw [h, recorded_nil])

theorem slot_liveSlots (nr : Nat) (k : RoundKeys) (j : Nat) : slot (liveSlots nr k) j = if j ≤ nr then slot k j else zero := by
  by_cases h : j < 15
  · simp [slot, liveSlots, h]
  · simp [slot, liveSlots, h]

/-- The slots above the loaded round count are zero (R171). -/
theorem slot_eq_zero_of_holdsKey {s : State} {key : List Byte} (h : AesKey key) (hk : HoldsKey s key) {j : Nat}
    (hj : s.nr.toNat < j) : slot s.ek j = zero ∧ slot s.dk j = zero := by
  rw [toNat_nr_of_holdsKey h hk] at hj
  obtain ⟨-, ek, dk⟩ := hk
  rw [ek, dk, slot_liveSlots, slot_liveSlots, if_neg (Nat.not_le.mpr hj), if_neg (Nat.not_le.mpr hj)]
  exact ⟨rfl, rfl⟩

theorem ofNat_keySched_nr {n : Word} (hn : n = 16 ∨ n = 32) {key : List Byte} (hk : key.length = n.toNat) :
    BitVec.ofNat 8 (keySched key).nr = if n = 16 then 10 else 14 := by
  obtain rfl | rfl := hn
  · rw [keySched_nr (.inl hk), nr_of_16 hk]
    rfl
  · rw [keySched_nr (.inr hk), nr_of_32 hk]
    rfl

/-- Settles O13: the KEY step commits the schedule of the bytes that it reads, which are those in memory. -/
theorem setKeyLoadsTheKeySchedule : Obligations.SetKeyLoadsTheKeySchedule := by
  rintro s hb ⟨race, -⟩ hl hr answers
  have accepted := (keyLengthAccepted_iff _ _).mpr hl
  have length := eq_16_or_32_of_keyLengthAccepted accepted
  have step := engineStep_key_ok (s := s.start .setKey .key) rfl length answers
  rw [map_engineByte_of_noRace (by exact race)] at step
  generalize hu : State.complete _ _ = u at step
  have aes : AesKey (s.mem.readBytes s.src.toNat s.len.toNat) := aesKey_map_range' length _ _
  have holds : HoldsKey u (s.mem.readBytes s.src.toNat s.len.toNat) := by
    rw [← hu]
    exact ⟨rfl, rfl, rfl⟩
  refine ⟨_, u, exec_setKey_of_inRange hb accepted hr, step, holds, ?_, ?_, fun j => slot_eq_zero_of_holdsKey aes holds, ?_⟩
  · obtain ⟨nr, -, -⟩ := holds
    rw [nr, ofNat_keySched_nr length (Memory.readBytes_length _ _ _)]
  all_goals
    rw [← hu]
    simp [EndedWith, SameOperands, SameMemory, SameHostSide]

theorem not_platformAnswers {c : Config} {k : AccessKind} {a n x : Nat} (lo : a ≤ x) (hi : x < a + n)
    (refused : memOk c k x = false) : ¬ PlatformAnswers c k a n := by
  intro answers
  simp [answers x lo hi] at refused

/-- Settles O14: the KEY step ends before it commits anything. -/
theorem setKeyBusErrorKeepsTheOldKey : Obligations.SetKeyBusErrorKeepsTheOldKey := by
  refine ⟨rfl, fun s x hb hl hr lo hi refused => ?_⟩
  have accepted := (keyLengthAccepted_iff _ _).mpr hl
  refine ⟨_, _, exec_setKey_of_inRange hb accepted hr,
    engineStep_key_fail rfl (eq_16_or_32_of_keyLengthAccepted accepted) (not_platformAnswers lo hi refused), ?_⟩
  simp [EndedWith, SameKey, SameOperands, SameMemory, SameHostSide]

/-- Settles O15: the CLR step erases the key and ends OK. -/
theorem clearErasesTheKey : Obligations.ClearErasesTheKey := fun _ hb =>
  ⟨_, _, exec_clear hb, engineStep_clr rfl, fun j => ⟨slot_zeroKeys j, slot_zeroKeys j⟩, rfl, rfl,
    statusWord_eq_zero rfl rfl rfl rfl, ⟨rfl, rfl, rfl, rfl, rfl⟩, rfl, ⟨rfl, rfl, rfl, rfl⟩, fun _ => rfl, ⟨rfl, rfl, rfl⟩, rfl⟩

/-! ### One CRYPT step -/

/-- Settles O17: the step completes the command before it looks at a block. -/
theorem cryptStepCompletesWhenAllBlocksAreDone : Obligations.CryptStepCompletesWhenAllBlocksAreDone := fun _ hp hi =>
  ⟨_, engineStep_crypt_done hp hi, ⟨rfl, rfl, rfl, rfl, rfl⟩, ⟨rfl, rfl, rfl, rfl⟩, ⟨rfl, rfl, rfl, rfl⟩, fun _ => rfl,
    ⟨rfl, rfl, rfl⟩, rfl, rfl⟩

/-- Settles O23: the batch is accepted whatever its buffers are, and its first step has no block left. -/
theorem emptyBatchIsANoOp : Obligations.EmptyBatchIsANoOp := by
  intro s i hi hb hk empty
  have accepted : exec i s = .next { s.start i .crypt with progress := 0 } := by
    obtain rfl | rfl := hi <;> exact acceptCrypt_of_inRange _ hb hk (.inl empty)
  have done : engineStep { s.start i .crypt with progress := 0 } = _ := engineStep_crypt_done rfl (by
    show 0 = s.len.toNat
    rw [empty]
    rfl)
  exact ⟨_, _, accepted, rfl, rfl, done, ⟨rfl, rfl, rfl, rfl, rfl⟩, rfl, rfl, rfl, ⟨rfl, rfl, rfl, rfl⟩, ⟨rfl, rfl, rfl, rfl⟩,
    ⟨rfl, rfl, rfl⟩⟩

/-- Settles O18: the step ends the command before it writes. -/
theorem cryptReadBusErrorWritesNothing : Obligations.CryptReadBusErrorWritesNothing := fun _ _ hp hi hn lo hx refused =>
  ⟨_, engineStep_crypt_readFail hp hi hn (not_platformAnswers lo hx refused), ⟨rfl, rfl, rfl, rfl, rfl⟩, ⟨rfl, rfl, rfl, rfl⟩,
    ⟨rfl, rfl, rfl, rfl⟩, fun _ => rfl, ⟨rfl, rfl, rfl⟩, rfl⟩

/-- Settles O19: only the 16 bytes of the block are freed. -/
theorem cryptWriteBusErrorTouchesOneBlockOnly : Obligations.CryptWriteBusErrorTouchesOneBlockOnly := by
  intro s x hp hi hn wf reads lo hx refused
  have step := engineStep_crypt_writeFail hp hi hn reads (not_platformAnswers lo hx refused)
  have touched := blockTouched_freeBytes (s := s)
    (r := s.afterRead.logAccesses .write ((List.range' (blockAddr s.curDst s.curI) 16).takeWhile (memOk s.cfg .write))) (by rfl)
  generalize State.freeBytes _ _ _ = t at step touched
  exact ⟨_, step, ⟨rfl, rfl, rfl, rfl, rfl⟩, touched.sameKey, touched.sameOperands, touched.outside wf, touched.sameHostSide,
    touched.progress⟩

/-- The state after a CRYPT step that stores block CUR_I without a race, but for the record of what the engine overwrote, `w`. -/
def State.blockStored (s : State) (w : List Host.Cell) : State :=
  { s with
    mem := s.mem.writeBytes (blockAddr s.curDst s.curI)
      (toBytes (s.transform (ofBytes (s.mem.readBytes (blockAddr s.curSrc s.curI) 16))))
    curI := s.curI + 1
    progress := (s.curI + 1).setWidth 64
    busLog := s.busLog ++ (List.range' (blockAddr s.curSrc s.curI) 16).map (BusAccess.mk .read) ++
      (List.range' (blockAddr s.curDst s.curI) 16).map (BusAccess.mk .write)
    engWrote := w }

theorem State.blockStored_mem (s : State) (w : List Host.Cell) : (s.blockStored w).mem =
    s.mem.writeBytes (blockAddr s.curDst s.curI)
      (toBytes (s.transform (ofBytes (s.mem.readBytes (blockAddr s.curSrc s.curI) 16)))) := rfl

theorem engineStep_crypt_noRace {s : State} (hp : s.phase = .crypt) (hi : s.curI.toNat ≠ s.curN.toNat)
    (hn : s.nr = 10 ∨ s.nr = 14) (race : s.hostWrote = []) (reads : PlatformAnswers s.cfg .read (blockAddr s.curSrc s.curI) 16)
    (writes : PlatformAnswers s.cfg .write (blockAddr s.curDst s.curI) 16) : ∃ w, engineStep s = .next (s.blockStored w) := by
  rw [engineStep_crypt_ok hp hi hn reads writes, State.inputBlock, map_engineByte_of_noRace race]
  generalize hv : toBytes (s.transform _) = v
  rw [State.engineWriteBytes_eq, State.engineWriteBytes_mem (by exact race)]
  simp only [State.blockStored, hv]
  exact ⟨_, rfl⟩

theorem Memory.read_writeBlock {m : Memory} (wf : Memory.wf m = true) (a : Nat) (v : Vec) (j : Fin 16) :
    (m.writeBytes a (toBytes v)).read (a + j.val) = lane v j := by
  have inside : a ≤ a + j.val ∧ a + j.val < a + (toBytes v).length := by
    rw [toBytes_length]
    omega
  rw [Memory.read_writeBytes wf, if_pos inside, Nat.add_sub_cancel_left, toBytes_getD]

theorem Memory.read_writeBlock_outside {m : Memory} (wf : Memory.wf m = true) {a x : Nat} (v : Vec)
    (hx : ¬ (a ≤ x ∧ x < a + 16)) : (m.writeBytes a (toBytes v)).read x = m.read x := by
  rw [Memory.read_writeBytes wf, toBytes_length, if_neg hx]

/-- Settles O16: the bytes of block CUR_I are written, and no other. -/
theorem cryptStepProcessesOneBlock : Obligations.CryptStepProcessesOneBlock := by
  intro s hp lt hn race wf reads writes
  obtain ⟨w, step⟩ := engineStep_crypt_noRace hp lt.ne hn race reads writes
  obtain ⟨next, progress⟩ := toNat_next_block lt
  refine ⟨_, step, fun j => ?_, fun x hx => ?_, next, progress, rfl,
    ⟨rfl, rfl, rfl, rfl⟩, ⟨rfl, rfl, rfl, rfl⟩, ⟨rfl, rfl, rfl⟩, rfl, rfl, rfl, rfl, rfl, rfl, rfl, race⟩
  · change (s.blockStored w).mem.read (blockAddr s.curDst s.curI + j.val) =
      lane (s.transform (ofBytes (s.mem.readBytes (blockAddr s.curSrc s.curI) 16))) j
    rw [State.blockStored_mem, Memory.read_writeBlock wf]
  · rw [State.blockStored_mem, Memory.read_writeBlock_outside wf _ (by exact hx)]

end Sys2Proof.Machine
end

section
/-! Whole batches (R242, R243): the engine steps of ENCRYPT_N and DECRYPT_N without a race do the blocks in order (R62), and on
buffers apart each block of the output is made of the input as it was at acceptance. -/

namespace Sys2Proof.Machine

/-! ### The blocks in order -/

theorem engineSteps_succ_of_next {n : Nat} {s t : State} (h : engineSteps n s = .next t) :
    engineSteps (n + 1) s = engineStep t := by
  induction n generalizing s with
  | zero =>
    cases h
    rw [engineSteps]
    cases engineStep t <;> rfl
  | succ n ih =>
    rw [engineSteps] at h ⊢
    cases hs : engineStep s with
    | next u =>
      rw [hs] at h
      exact ih h
    | fault f => simp [hs] at h
    | refused r => simp [hs] at h

/-- The state of a batch that started in `s` when its first `n` blocks are done, but for the record of what the engine overwrote,
`w`. -/
def State.afterBlocks (s : State) (n : Nat) (w : List Host.Cell) : State :=
  { s with
    mem := ecbInOrder s.transform s.mem s.curSrc.toNat s.curDst.toNat n
    curI := BitVec.ofNat 65 n
    progress := BitVec.ofNat 64 n
    busLog := s.busLog ++ batchAccesses s.curSrc.toNat s.curDst.toNat n
    engWrote := w }

theorem blockAddr_ofNat (base : Word) {n : Nat} (h : n < 2 ^ 65) : blockAddr base (BitVec.ofNat 65 n) = base.toNat + 16 * n := by
  rw [blockAddr, BitVec.toNat_ofNat, Nat.mod_eq_of_lt h]

/-- One more block done is one more block of the order (R62, R58). -/
theorem State.blockStored_afterBlocks (s : State) {n : Nat} (h : n < 2 ^ 65) (w w' : List Host.Cell) :
    (s.afterBlocks n w).blockStored w' = s.afterBlocks (n + 1) w' := by
  have next : BitVec.ofNat 65 n + 1 = BitVec.ofNat 65 (n + 1) := (BitVec.ofNat_add n 1).symm
  have progress : (BitVec.ofNat 65 (n + 1)).setWidth 64 = BitVec.ofNat 64 (n + 1) := by
    apply BitVec.eq_of_toNat_eq
    simp only [BitVec.toNat_setWidth, BitVec.toNat_ofNat]
    omega
  have transform : (s.afterBlocks n w).transform = s.transform := rfl
  rw [State.blockStored, transform]
  simp only [State.afterBlocks, next, progress, blockAddr_ofNat _ h, ecbInOrder, batchAccesses, List.append_assoc]

/-- What a run of a batch needs: a CRYPT command at its first block, with a round count of AES, a platform that answers at both
buffers, and no race. -/
structure BatchRuns (s : State) : Prop where
  phase : s.phase = .crypt
  first : s.curI = 0
  progress : s.progress = 0
  nr : s.nr = 10 ∨ s.nr = 14
  race : s.hostWrote = []
  reads : PlatformAnswers s.cfg .read s.curSrc.toNat (16 * s.curN.toNat)
  writes : PlatformAnswers s.cfg .write s.curDst.toNat (16 * s.curN.toNat)

theorem PlatformAnswers.block {c : Config} {k : AccessKind} {a n i : Nat} (h : PlatformAnswers c k a (16 * n)) (hi : i < n) :
    PlatformAnswers c k (a + 16 * i) 16 := fun x lo hx => h x (by omega) (by omega)

theorem afterBlocks_zero {s : State} (first : s.curI = 0) (progress : s.progress = 0) : s = s.afterBlocks 0 s.engWrote := by
  rw [State.afterBlocks, ecbInOrder, batchAccesses, List.append_nil]
  cases s
  cases first
  cases progress
  rfl

/-- Block by block up to CUR_N. -/
theorem BatchRuns.engineSteps_eq {s : State} (h : BatchRuns s) {n : Nat} (hn : n ≤ s.curN.toNat) :
    ∃ w, engineSteps n s = .next (s.afterBlocks n w) := by
  induction n with
  | zero => exact ⟨s.engWrote, congrArg Host.Outcome.next (afterBlocks_zero h.first h.progress)⟩
  | succ n ih =>
    have bound := s.curN.isLt
    have small : n < 2 ^ 65 := by omega
    obtain ⟨w, steps⟩ := ih (by omega)
    have index : (s.afterBlocks n w).curI.toNat = n := (BitVec.toNat_ofNat n 65).trans (Nat.mod_eq_of_lt small)
    obtain ⟨w', step⟩ := engineStep_crypt_noRace (s := s.afterBlocks n w) h.phase (by rw [index]; exact Nat.ne_of_lt hn) h.nr
      h.race (by rw [blockAddr, index]; exact h.reads.block hn) (by rw [blockAddr, index]; exact h.writes.block hn)
    exact ⟨w', by rw [engineSteps_succ_of_next steps, step, State.blockStored_afterBlocks s small]⟩

/-- The step after the last block completes the command (R237). -/
theorem BatchRuns.engineSteps_complete {s : State} (h : BatchRuns s) :
    ∃ w, engineSteps (s.curN.toNat + 1) s = .next ((s.afterBlocks s.curN.toNat w).complete .ok) := by
  obtain ⟨w, steps⟩ := h.engineSteps_eq (le_refl _)
  have bound := s.curN.isLt
  have last : (s.afterBlocks s.curN.toNat w).curI.toNat = s.curN.toNat :=
    (BitVec.toNat_ofNat _ 65).trans (Nat.mod_eq_of_lt (by omega))
  exact ⟨w, by rw [engineSteps_succ_of_next steps, engineStep_crypt_done (s := s.afterBlocks _ w) h.phase last]⟩

/-- What the statements ask at acceptance of a batch. -/
structure BatchReady (s : State) : Prop where
  busy : s.busy = false
  race : NoRace s
  keyValid : s.keyValid = true
  nr : s.nr = 10 ∨ s.nr = 14
  src : s.src.toNat + 16 * s.len.toNat ≤ 2 ^ s.cfg.addrBits
  dst : s.dst.toNat + 16 * s.len.toNat ≤ 2 ^ s.cfg.addrBits
  reads : PlatformAnswers s.cfg .read s.src.toNat (16 * s.len.toNat)
  writes : PlatformAnswers s.cfg .write s.dst.toNat (16 * s.len.toNat)

/-- A batch from its acceptance to its end, for either command; `t` is the accepted state. -/
theorem BatchReady.run {s : State} (h : BatchReady s) (op : Instr) {t : State} (ht : t = { s.start op .crypt with progress := 0 }) :
    acceptCrypt op s = .next t ∧
      ∃ w, engineSteps (s.len.toNat + 1) t = .next ((t.afterBlocks s.len.toNat w).complete .ok) := by
  subst ht
  obtain ⟨hostWrote, -⟩ := h.race
  have runs : BatchRuns { s.start op .crypt with progress := 0 } :=
    { phase := rfl, first := rfl, progress := rfl, nr := h.nr, race := hostWrote, reads := h.reads, writes := h.writes }
  exact ⟨acceptCrypt_of_inRange op h.busy h.keyValid (.inr ⟨h.src, h.dst⟩), runs.engineSteps_complete⟩

theorem transform_encryptN {s : State} (h : s.curOp = .encryptN) : s.transform = fun b => encBlock b s.ek s.nr.toNat := by
  funext b
  rw [State.transform, if_pos h]

theorem transform_decryptN {s : State} (h : s.curOp = .decryptN) : s.transform = fun b => decBlock b s.dk s.nr.toNat := by
  funext b
  rw [State.transform, if_neg (by rw [h]; decide)]

/-- Settles O22: for either command the steps do the blocks in order, whatever the buffers are. -/
theorem overlappingBatchIsSequential : Obligations.OverlappingBatchIsSequential := by
  intro s busy race valid nr src dst reads writes
  have ready : BatchReady s := ⟨busy, race, valid, nr, src, dst, reads, writes⟩
  constructor
  · obtain ⟨accepted, w, steps⟩ := ready.run .encryptN rfl
    refine ⟨_, _, accepted, steps, ⟨rfl, rfl, rfl, rfl, rfl⟩, ?_, rfl⟩
    rw [State.complete_mem, State.afterBlocks, transform_encryptN rfl]
    rfl
  · obtain ⟨accepted, w, steps⟩ := ready.run .decryptN rfl
    refine ⟨_, _, accepted, steps, ⟨rfl, rfl, rfl, rfl, rfl⟩, ?_, rfl⟩
    rw [State.complete_mem, State.afterBlocks, transform_decryptN rfl]
    rfl

/-! ### Buffers apart -/

section
variable {f : Vec → Vec} {m : Memory} {src dst : Nat}

theorem ecbInOrder_wf (wf : Memory.wf m = true) (n : Nat) : Memory.wf (ecbInOrder f m src dst n) = true := by
  induction n with
  | zero => exact wf
  | succ n ih => exact Memory.writeBytes_wf ih _ _

/-- The blocks write the output buffer only. -/
theorem read_ecbInOrder_outside (wf : Memory.wf m = true) {n x : Nat} (hx : ¬ (dst ≤ x ∧ x < dst + 16 * n)) :
    (ecbInOrder f m src dst n).read x = m.read x := by
  induction n with
  | zero => rfl
  | succ n ih =>
    rw [ecbInOrder, Memory.read_writeBlock_outside (ecbInOrder_wf wf n) _ (by omega)]
    exact ih (by omega)

theorem Memory.readBytes_congr {m m' : Memory} {a n : Nat} (h : ∀ x, a ≤ x → x < a + n → m'.read x = m.read x) :
    m'.readBytes a n = m.readBytes a n :=
  List.map_congr_left fun x hx => by
    obtain ⟨lo, hi⟩ := List.mem_range'_1.mp hx
    exact h x lo hi

/-- On buffers apart block `i` is made of the input as it was, and no later block writes there. -/
theorem read_ecbInOrder_block (wf : Memory.wf m = true) {n i : Nat} (hi : i < n)
    (apart : src + 16 * n ≤ dst ∨ dst + 16 * n ≤ src) (j : Fin 16) :
    (ecbInOrder f m src dst n).read (dst + 16 * i + j.val) = lane (f (ofBytes (m.readBytes (src + 16 * i) 16))) j := by
  induction n with
  | zero => exact absurd hi (Nat.not_lt_zero i)
  | succ n ih =>
    rw [ecbInOrder]
    obtain rfl | earlier : i = n ∨ i < n := by omega
    · have input : (ecbInOrder f m src dst i).readBytes (src + 16 * i) 16 = m.readBytes (src + 16 * i) 16 :=
        Memory.readBytes_congr fun x lo hx => read_ecbInOrder_outside wf (by omega)
      rw [Memory.read_writeBlock (ecbInOrder_wf wf i), input]
    · rw [Memory.read_writeBlock_outside (ecbInOrder_wf wf n) _ (by omega)]
      exact ih earlier (by omega)

end

/-- A batch of either command on buffers apart, with `f` the block transform of that command. -/
theorem BatchReady.run_apart {s : State} (h : BatchReady s) (wf : Memory.wf s.mem = true)
    (apart : s.src.toNat + 16 * s.len.toNat ≤ s.dst.toNat ∨ s.dst.toNat + 16 * s.len.toNat ≤ s.src.toNat) (op : Instr)
    {f : Vec → Vec} (hf : State.transform { s.start op .crypt with progress := 0 } = f) :
    ∃ t u : State, acceptCrypt op s = .next t ∧ engineSteps (s.len.toNat + 1) t = .next u ∧
      EndedWith u .ok ∧ u.progress = s.len ∧
      (∀ (i : Nat) (j : Fin 16), i < s.len.toNat →
        u.mem.read (s.dst.toNat + 16 * i + j.val) = lane (f (ofBytes (s.mem.readBytes (s.src.toNat + 16 * i) 16))) j) ∧
      SameMemoryOutside s u s.dst.toNat (16 * s.len.toNat) ∧ SameKey s u ∧ SameOperands s u ∧ SameHostSide s u := by
  obtain ⟨accepted, w, steps⟩ := h.run op rfl
  have mem : State.mem (State.complete (State.afterBlocks { s.start op .crypt with progress := 0 } s.len.toNat w) .ok) =
      ecbInOrder f s.mem s.src.toNat s.dst.toNat s.len.toNat := by
    rw [State.complete_mem, State.afterBlocks, hf]
    rfl
  have progress : BitVec.ofNat 64 s.len.toNat = s.len := by simp
  refine ⟨_, _, accepted, steps, ⟨rfl, rfl, rfl, rfl, rfl⟩, progress, fun i j hi => ?_, fun x hx => ?_, ⟨rfl, rfl, rfl, rfl⟩,
    ⟨rfl, rfl, rfl, rfl⟩, ⟨rfl, rfl, rfl⟩⟩
  · rw [mem, read_ecbInOrder_block wf hi apart]
  · rw [mem, read_ecbInOrder_outside wf hx]

/-- Settles O20: ENCRYPT_N transforms by ENC_BLOCK under EK. -/
theorem encryptBatchEncryptsEveryBlock : Obligations.EncryptBatchEncryptsEveryBlock := by
  intro s busy race wf valid nr src dst reads writes apart
  have ready : BatchReady s := ⟨busy, race, valid, nr, src, dst, reads, writes⟩
  have transform : State.transform { s.start .encryptN .crypt with progress := 0 } = fun b => encBlock b s.ek s.nr.toNat :=
    transform_encryptN rfl
  have batch := ready.run_apart wf apart .encryptN transform
  exact batch

/-- Settles O21: DECRYPT_N transforms by DEC_BLOCK under DK. -/
theorem decryptBatchDecryptsEveryBlock : Obligations.DecryptBatchDecryptsEveryBlock := by
  intro s busy race wf valid nr src dst reads writes apart
  have ready : BatchReady s := ⟨busy, race, valid, nr, src, dst, reads, writes⟩
  have transform : State.transform { s.start .decryptN .crypt with progress := 0 } = fun b => decBlock b s.dk s.nr.toNat :=
    transform_decryptN rfl
  have batch := ready.run_apart wf apart .decryptN transform
  exact batch

end Sys2Proof.Machine
end

section
/-! Host memory accesses (R53, U8): off the buffers of the running command they are as on memory alone, and on them a byte takes one
of the values that R65 allows. -/

namespace Sys2Proof.Machine

/-! ### Accesses that complete -/

theorem touchesWindow_eq_false {c : Config} {a n : Nat} (h : a + n ≤ c.regBase ∨ c.regBase + 64 ≤ a) :
    touchesWindow c a n = false := by
  rw [← Bool.not_eq_true, touchesWindow_iff]
  rintro ⟨x, lo, hi, base, top⟩
  omega

theorem step_mw {s : State} {a : Nat} {bs : List Byte} {rest : List Event} (hs : s.script = .mw a bs :: rest)
    (inside : a + bs.length ≤ 2 ^ s.cfg.addrBits) (off : a + bs.length ≤ s.cfg.regBase ∨ s.cfg.regBase + 64 ≤ a) :
    step s = .next ((s.advance rest).hostWriteBytes a bs) := by
  rw [step_cons hs, takeEvent, hostMw, State.advance_cfg, touchesWindow_eq_false off, if_neg Bool.false_ne_true,
    if_neg (by omega)]

theorem step_mr {s : State} {a n : Nat} {rest : List Event} (hs : s.script = .mr a n :: rest)
    (inside : a + n ≤ 2 ^ s.cfg.addrBits) (off : a + n ≤ s.cfg.regBase ∨ s.cfg.regBase + 64 ≤ a) :
    step s = .next { s.advance rest with hostData := .bytes ((List.range' a n).map (s.advance rest).hostByte) } := by
  rw [step_cons hs, takeEvent, hostMr, State.advance_cfg, touchesWindow_eq_false off, if_neg Bool.false_ne_true,
    if_neg (by omega)]
  rfl

/-! ### Off the buffers -/

theorem State.readsByte_iff (s : State) (x : Nat) : s.readsByte x = true ↔
    (s.phase = .key ∧ s.curSrc.toNat ≤ x ∧ x < s.curSrc.toNat + s.curN.toNat) ∨
      (s.phase = .crypt ∧ s.curSrc.toNat ≤ x ∧ x < s.curSrc.toNat + 16 * s.curN.toNat) := by
  rw [State.readsByte]
  cases s.phase <;> simp [inBuffer_iff, bufferLength]

theorem State.writesByte_iff (s : State) (x : Nat) : s.writesByte x = true ↔
    s.phase = .crypt ∧ s.curDst.toNat ≤ x ∧ x < s.curDst.toNat + 16 * s.curN.toNat := by
  rw [State.writesByte]
  cases s.phase <;> simp [inBuffer_iff, bufferLength]

theorem Memory.readBytes_writeBytes {m : Memory} (wf : Memory.wf m = true) (a : Nat) (vs : List Byte) :
    (m.writeBytes a vs).readBytes a vs.length = vs := by
  refine List.ext_getElem (Memory.readBytes_length _ _ _) fun k _ hk => ?_
  simp [Memory.readBytes, Memory.read_writeBytes wf, hk]

/-- Settles O39: the write stores the bytes alone, and the read that follows gives them as memory holds them. -/
theorem hostMemoryWritesAreReadBack : Obligations.HostMemoryWritesAreReadBack := by
  refine ⟨fun s x => ⟨s.readsByte_iff x, s.writesByte_iff x⟩, fun s a bs rest free wf inside off hs => ?_⟩
  have written := step_mw hs inside off
  rw [State.hostWriteBytes_off a bs (by exact free)] at written
  have stored : (s.mem.writeBytes a bs).readBytes a bs.length = bs := Memory.readBytes_writeBytes wf a bs
  generalize ht : State.mk .. = t at written
  have read := step_mr (s := t) (a := a) (n := bs.length) (rest := rest) (by rw [← ht]; rfl) (by rw [← ht]; exact inside)
    (by rw [← ht]; exact off)
  have bytes : (List.range' a bs.length).map (t.advance rest).hostByte = bs := by
    refine Eq.trans (List.map_congr_left fun x hx => ?_) stored
    obtain ⟨lo, hi⟩ := List.mem_range'_1.mp hx
    rw [← ht, State.hostByte_off (by exact (free x lo hi).2)]
    rfl
  rw [bytes] at read
  refine ⟨t, _, written, read, rfl, ?_, ?_, ?_, rfl⟩ <;> rw [← ht]
  · exact stored
  · exact fun x hx => (Memory.read_writeBytes wf a bs x).trans (if_neg hx)

/-! ### Races -/

/-- A host write to a byte of a buffer records what it overwrites. -/
theorem State.hostWriteByte_hostWrote {s : State} {a : Nat} (h : s.readsByte a = true ∨ s.writesByte a = true) (v : Byte) :
    (s.hostWriteByte a v).hostWrote = (a, s.mem.read a) :: s.hostWrote := by
  rw [State.hostWriteByte, if_pos (by simpa using h)]

/-- A block that a CRYPT step would store is made of the bytes that it would read. -/
theorem State.blockOutput_eq_some {s : State} {v : Vec} (h : s.blockOutput = some v) :
    s.curI.toNat ≠ s.curN.toNat ∧ v = s.blockFrom ((List.range' (blockAddr s.curSrc s.curI) 16).map s.engineByte) := by
  rw [State.blockOutput] at h
  split at h
  · rename_i pending
    have left : s.curI.toNat ≠ s.curN.toNat := by
      rw [State.blockPending] at pending
      split at pending <;> simp_all
    by_cases answers : PlatformAnswers s.cfg .read (blockAddr s.curSrc s.curI) 16
    · rw [State.memRead_ok answers] at h
      exact ⟨left, (Option.some.inj h).symm⟩
    · rw [State.memRead_fail answers] at h
      cases h
  · cases h

/-- The value that a block step in progress would give a byte is a lane of its block. -/
theorem State.mem_pendingBytes {s : State} {a : Nat} {b : Byte} (h : b ∈ s.pendingBytes a) :
    s.curI.toNat ≠ s.curN.toNat ∧ ∃ j : Fin 16, a = blockAddr s.curDst s.curI + j.val ∧
      b = lane (s.blockFrom ((List.range' (blockAddr s.curSrc s.curI) 16).map s.engineByte)) j := by
  rw [State.pendingBytes] at h
  split at h
  · cases h
  · rename_i v hv
    obtain ⟨left, rfl⟩ := State.blockOutput_eq_some hv
    split at h
    · rename_i inside
      rw [inBuffer_iff] at inside
      refine ⟨left, laneIndex (a - blockAddr s.curDst s.curI), ?_, List.mem_singleton.mp h⟩
      rw [val_laneIndex_of_lt (by omega)]
      omega
    · cases h

/-- A host read gives the byte in memory, or, at a byte that the running command writes, one from before or after (R65). -/
theorem State.hostByte_cases (s : State) (a : Nat) : s.hostByte a = s.mem.read a ∨
    (s.writesByte a = true ∧ (s.hostByte a ∈ recorded s.engWrote a ∨ s.hostByte a ∈ s.pendingBytes a)) := by
  cases writes : s.writesByte a with
  | false => exact .inl (State.hostByte_off writes)
  | true =>
    have chosen : s.hostByte a = choose (Config.freeHostRead s.freeCount a) (s.mem.read a)
        (recorded s.engWrote a ++ s.pendingBytes a) := by rw [State.hostByte, if_pos writes]
    rw [chosen, ← List.mem_append]
    exact (choose_mem _ _ _).imp id fun h => ⟨rfl, h⟩

theorem getD_map_range' (f : Nat → Byte) (a : Nat) {n k : Nat} (hk : k < n) : ((List.range' a n).map f).getD k 0 = f (a + k) := by
  simp [List.getD_eq_getElem?_getD, hk]

/-- A host write to a byte of a buffer of the running command (R65): the values that may stand there, and those that the engine may
read there afterwards. -/
theorem hostWrite_race {s : State} {a : Nat} {v : Byte} {rest : List Event} (h : s.readsByte a = true ∨ s.writesByte a = true)
    (wf : Memory.wf s.mem = true) (inside : a < 2 ^ s.cfg.addrBits) (off : a < s.cfg.regBase ∨ s.cfg.regBase + 64 ≤ a)
    (hs : s.script = .mw a [v] :: rest) :
    ∃ t : State, step s = .next t ∧
      (t.mem.read a = v ∨ (recorded s.engWrote a ≠ [] ∧ t.mem.read a = s.mem.read a)) ∧
      (∀ u : State, u.mem = t.mem → u.hostWrote = t.hostWrote →
        u.engineByte a = t.mem.read a ∨ u.engineByte a = s.mem.read a ∨ u.engineByte a ∈ recorded s.hostWrote a) ∧
      SameMemoryOutside s t a 1 ∧ recorded t.hostWrote a = s.mem.read a :: recorded s.hostWrote a ∧
      (∀ b, b ≠ a → recorded t.hostWrote b = recorded s.hostWrote b) ∧
      t = { s.advance rest with mem := t.mem, hostWrote := t.hostWrote } := by
  have record : ((s.advance rest).hostWriteByte a v).hostWrote = (a, s.mem.read a) :: s.hostWrote :=
    State.hostWriteByte_hostWrote (s := s.advance rest) h v
  have same : recorded ((s.advance rest).hostWriteByte a v).hostWrote a = s.mem.read a :: recorded s.hostWrote a := by
    rw [record, recorded_cons_self]
  refine ⟨_, step_mw hs inside off, State.hostWriteByte_read (s := s.advance rest) wf a v, fun u mem wrote => ?_, fun x hx => ?_,
    same, fun b hb => ?_, State.hostWriteBytes_eq (s.advance rest) a [v]⟩
  · obtain now | old := u.engineByte_cases a
    · exact .inl (now.trans (by rw [mem]))
    · rw [wrote] at old
      exact .inr (List.mem_cons.mp (same ▸ old))
  · exact State.hostWriteByte_outside (s := s.advance rest) wf a v (by omega)
  · exact (congrArg (recorded · b) record).trans (recorded_cons_ne hb.symm)

/-- A CRYPT step stores the block made of the bytes that it reads, or leaves the host's value at a byte that the host has
written. -/
theorem engineStep_crypt_race {s : State} (hp : s.phase = .crypt) (hi : s.curI.toNat ≠ s.curN.toNat)
    (hn : s.nr = 10 ∨ s.nr = 14) (wf : Memory.wf s.mem = true)
    (reads : PlatformAnswers s.cfg .read (blockAddr s.curSrc s.curI) 16)
    (writes : PlatformAnswers s.cfg .write (blockAddr s.curDst s.curI) 16) :
    ∃ t : State, engineStep s = .next t ∧
      (∀ j : Fin 16,
        (t.mem.read (blockAddr s.curDst s.curI + j.val) =
            lane (s.blockFrom ((List.range' (blockAddr s.curSrc s.curI) 16).map s.engineByte)) j ∨
          (recorded s.hostWrote (blockAddr s.curDst s.curI + j.val) ≠ [] ∧
            t.mem.read (blockAddr s.curDst s.curI + j.val) = s.mem.read (blockAddr s.curDst s.curI + j.val))) ∧
        recorded t.engWrote (blockAddr s.curDst s.curI + j.val) =
          s.mem.read (blockAddr s.curDst s.curI + j.val) :: recorded s.engWrote (blockAddr s.curDst s.curI + j.val)) ∧
      SameMemoryOutside s t (blockAddr s.curDst s.curI) 16 ∧ t.hostWrote = s.hostWrote := by
  have step := engineStep_crypt_ok hp hi hn reads writes
  have block : s.transform s.inputBlock = s.blockFrom ((List.range' (blockAddr s.curSrc s.curI) 16).map s.engineByte) :=
    (State.blockFrom_eq s _).symm
  rw [block] at step
  generalize s.blockFrom _ = v at step ⊢
  generalize hr : s.afterRead.logAccesses .write _ = r at step
  have frame : r = { s with busLog := r.busLog } := by rw [← hr]; rfl
  have touched := blockTouched_engineWriteBytes frame v
  have stored := fun j : Fin 16 =>
    State.engineWriteBytes_at (s := r) (by rw [frame, wf]) (blockAddr s.curDst s.curI) (toBytes v) (k := j.val) (by simp)
  generalize State.engineWriteBytes _ _ _ = t at step touched stored
  rw [frame] at stored
  simp only [toBytes_getD] at stored
  refine ⟨_, step, ?_, fun x hx => ?_, ?_⟩
  · rw [State.blockDone_mem, State.blockDone_engWrote]
    exact stored
  · rw [State.blockDone_mem]
    exact touched.outside wf x hx
  · rw [State.blockDone_hostWrote, touched.frame]

/-- Settles O40: a host write leaves one of two values and records the one before, an engine read takes the value that stands or a
recorded one, and the steps and the host reads work on those. -/
theorem racingHostWriteIsReadOldOrNew : Obligations.RacingHostWriteIsReadOldOrNew := by
  refine ⟨fun s a v rest => hostWrite_race, State.engineByte_cases, fun s hp hn answers => ?key,
    fun s hp lt hn wf reads writes => ?crypt, fun s a n rest inside off hs => ?hostRead⟩
  case key => exact ⟨_, engineStep_key_ok hp hn answers, ⟨rfl, rfl, rfl⟩, rfl, ⟨rfl, rfl, rfl, rfl, rfl⟩, fun _ => rfl⟩
  case crypt =>
    obtain ⟨t, step, block, outside, hostWrote⟩ := engineStep_crypt_race hp lt.ne hn wf reads writes
    refine ⟨t, step, ?_, outside, hostWrote⟩
    rintro j x rfl
    exact block j
  case hostRead =>
    refine ⟨_, _, step_mr hs inside off, rfl, by simp, fun k hk => ?_⟩
    rw [getD_map_range' _ _ hk]
    obtain now | ⟨writes, before | pending⟩ := (s.advance rest).hostByte_cases (a + k)
    · exact .inl now
    · exact .inr ⟨writes, .inl before⟩
    · exact .inr ⟨writes, .inr (State.mem_pendingBytes pending)⟩

end Sys2Proof.Machine
end

section
/-! Noninterference (R338, R339): a step from the public view of a state shows what a step from the state shows, so states with the
same public view cannot be told apart. -/

namespace Sys2Proof.Machine

/-! ### The public view -/

@[simp] theorem HostData.hideBytes_hideBytes (d : HostData) : d.hideBytes.hideBytes = d.hideBytes := by
  cases d <;> simp [HostData.hideBytes]

@[simp] theorem publicView_publicView (s : State) : s.publicView.publicView = s.publicView := by
  simp [State.publicView, Function.comp_def]

theorem publicOutcome_publicOutcome (o : Host.Outcome State Fault Refusal) : publicOutcome (publicOutcome o) = publicOutcome o := by
  cases o with
  | next s => exact congrArg Host.Outcome.next (publicView_publicView s)
  | fault f => rfl
  | refused r => rfl

theorem publicView_advance (s : State) (rest : List Event) : (s.advance rest).publicView = s.publicView.advance rest := rfl

/-- Of an engine write it is public which bytes are written. -/
theorem publicView_engineWriteBytes (s : State) (a : Nat) (vs : List Byte) : (s.engineWriteBytes a vs).publicView =
    { s.publicView with
      engWrote := ((List.range' a vs.length).map fun x => (x, (0 : Byte))).reverse ++ s.publicView.engWrote } := by
  induction vs generalizing s a with
  | nil => rfl
  | cons v vs ih =>
    rw [State.engineWriteBytes, ih, List.length_cons, List.range'_succ, List.map_cons, List.reverse_cons, List.append_assoc]
    rfl

/-! The named updates take states with the same public view to states with the same public view. -/

section
variable {s t : State} (h : s.publicView = t.publicView)
include h

theorem publicView_logAccesses_congr (k : AccessKind) (as : List Nat) :
    (s.logAccesses k as).publicView = (t.logAccesses k as).publicView := congrArg (State.logAccesses · k as) h

theorem publicView_complete_congr (e : ErrCode) : (s.complete e).publicView = (t.complete e).publicView :=
  congrArg (State.complete · e) h

theorem publicView_eraseKey_congr : s.eraseKey.publicView = t.eraseKey.publicView := congrArg State.eraseKey h

theorem publicView_commitKey_congr {k k' : Schedule} (hk : k.nr = k'.nr) :
    (s.commitKey k).publicView = (t.commitKey k').publicView := by
  have view := congrArg (fun u : State => { u with nr := BitVec.ofNat 8 k.nr, keyValid := true }) h
  refine Eq.trans view ?_
  rw [hk]
  rfl

theorem publicView_blockDone_congr : s.blockDone.publicView = t.blockDone.publicView := congrArg State.blockDone h

theorem publicView_freeBytes_congr (a n : Nat) : (s.freeBytes a n).publicView = (t.freeBytes a n).publicView := h

theorem publicView_engineWriteBytes_congr (a : Nat) {vs ws : List Byte} (len : vs.length = ws.length) :
    (s.engineWriteBytes a vs).publicView = (t.engineWriteBytes a ws).publicView := by
  rw [publicView_engineWriteBytes, publicView_engineWriteBytes, h, len]

end

/-- Of a host write it is public which bytes of the buffers are written. -/
theorem publicView_hostWriteByte (s : State) (a : Nat) (v : Byte) : (s.hostWriteByte a v).publicView =
    if s.publicView.readsByte a || s.publicView.writesByte a then
      { s.publicView with hostWrote := (a, 0) :: s.publicView.hostWrote }
    else s.publicView := by
  rw [State.hostWriteByte, apply_ite State.publicView]
  rfl

theorem publicView_hostWriteBytes_congr {s t : State} (h : s.publicView = t.publicView) (a : Nat) (vs : List Byte) :
    (s.hostWriteBytes a vs).publicView = (t.hostWriteBytes a vs).publicView := by
  induction vs generalizing s t a with
  | nil => exact h
  | cons v vs ih => exact ih (by rw [publicView_hostWriteByte, publicView_hostWriteByte, h]) (a + 1)

/-! ### An engine step -/

/-- The round count of a schedule depends on the length of the key only. -/
theorem keySched_nr_congr {key key' : List Byte} (h : AesKey key) (len : key'.length = key.length) :
    (keySched key').nr = (keySched key).nr := by
  have h' : AesKey key' := by rwa [AesKey, len]
  rw [keySched_nr h, keySched_nr h', Fips.nr, Fips.nr, Fips.nk, Fips.nk, len]

/-- The conditions of an engine step are public, and so is all that it changes but memory and the round keys. -/
theorem publicOutcome_engineStep (s : State) : publicOutcome (engineStep s.publicView) = publicOutcome (engineStep s) := by
  have same := publicView_publicView s
  cases hp : s.phase with
  | idle =>
    rw [engineStep_idle hp, engineStep_idle (s := s.publicView) hp]
    exact congrArg Host.Outcome.next same
  | key =>
    by_cases hn : s.curN = 16 ∨ s.curN = 32
    · have afterRead := publicView_logAccesses_congr same .read
      by_cases ha : PlatformAnswers s.cfg .read s.curSrc.toNat s.curN.toNat
      · have nr := keySched_nr_congr (key' := (List.range' s.curSrc.toNat s.curN.toNat).map s.publicView.engineByte)
          (aesKey_map_range' hn s.curSrc.toNat s.engineByte) (by simp)
        rw [engineStep_key_ok hp hn ha, engineStep_key_ok (s := s.publicView) hp hn ha]
        exact congrArg Host.Outcome.next (publicView_complete_congr (publicView_commitKey_congr (afterRead _) nr) .ok)
      · rw [engineStep_key_fail hp hn ha, engineStep_key_fail (s := s.publicView) hp hn ha]
        exact congrArg Host.Outcome.next (publicView_complete_congr (afterRead _) .busError)
    · rw [engineStep_key_undefined hp hn, engineStep_key_undefined (s := s.publicView) hp hn]
  | crypt =>
    by_cases hi : s.curI.toNat = s.curN.toNat
    · rw [engineStep_crypt_done hp hi, engineStep_crypt_done (s := s.publicView) hp hi]
      exact congrArg Host.Outcome.next (publicView_complete_congr same .ok)
    by_cases hn : s.nr = 10 ∨ s.nr = 14
    · have afterRead := publicView_logAccesses_congr same .read
      by_cases hr : PlatformAnswers s.cfg .read (blockAddr s.curSrc s.curI) 16
      · have afterWrites := publicView_logAccesses_congr (afterRead (List.range' (blockAddr s.curSrc s.curI) 16)) .write
        by_cases hw : PlatformAnswers s.cfg .write (blockAddr s.curDst s.curI) 16
        · rw [engineStep_crypt_ok hp hi hn hr hw, engineStep_crypt_ok (s := s.publicView) hp hi hn hr hw]
          exact congrArg Host.Outcome.next
            (publicView_blockDone_congr (publicView_engineWriteBytes_congr (afterWrites _) _ (by simp only [toBytes_length])))
        · rw [engineStep_crypt_writeFail hp hi hn hr hw, engineStep_crypt_writeFail (s := s.publicView) hp hi hn hr hw]
          exact congrArg Host.Outcome.next
            (publicView_complete_congr (publicView_freeBytes_congr (afterWrites _) _ _) .busError)
      · rw [engineStep_crypt_readFail hp hi hn hr, engineStep_crypt_readFail (s := s.publicView) hp hi hn hr]
        exact congrArg Host.Outcome.next (publicView_complete_congr (afterRead _) .busError)
    · rw [engineStep_crypt_undefined hp hi hn, engineStep_crypt_undefined (s := s.publicView) hp hi hn]
  | clr =>
    rw [engineStep_clr hp, engineStep_clr (s := s.publicView) hp]
    exact congrArg Host.Outcome.next (publicView_complete_congr (publicView_eraseKey_congr same) .ok)

/-! ### A host event -/

theorem readReg_publicView (s : State) (r : HostReg) : readReg s.publicView r = readReg s r := by
  cases r <;> rfl

/-- Of what the host has read, only what is public of it shows. -/
theorem publicView_hostData_congr (s : State) {d d' : HostData} (h : d.hideBytes = d'.hideBytes) :
    State.publicView { s.publicView with hostData := d } = State.publicView { s with hostData := d' } := by
  have view := congrArg (fun u : State => { u with hostData := d.hideBytes }) (publicView_publicView s)
  rw [h] at view
  refine Eq.trans ?_ view
  rw [← h]
  rfl

theorem exec_publicView (i : Instr) (s : State) : exec i s.publicView = publicOutcome (exec i s) := by
  cases i with
  | setKey =>
    simp only [exec, execSetKey, apply_ite publicOutcome]
    rfl
  | encryptN =>
    simp only [exec, execEncryptN, acceptCrypt, apply_ite publicOutcome]
    rfl
  | decryptN =>
    simp only [exec, execDecryptN, acceptCrypt, apply_ite publicOutcome]
    rfl
  | clear =>
    simp only [exec, execClear, apply_ite publicOutcome]
    rfl

theorem writeReg_publicView (r : HostReg) (v : Word) (s : State) : writeReg r v s.publicView = publicOutcome (writeReg r v s) := by
  cases r with
  | cmd =>
    rw [writeReg_cmd, writeReg_cmd]
    cases hc : decode v with
    | error e =>
      rw [writeCmd_error hc, writeCmd_error hc]
      refine congrArg Host.Outcome.next ?_
      rw [apply_ite State.publicView]
      rfl
    | ok i =>
      rw [writeCmd, writeCmd, hc]
      exact exec_publicView i s
  | name | caps | status | src | dst | len | progress => rfl

theorem publicOutcome_takeEvent (e : Event) (s : State) :
    publicOutcome (takeEvent e s.publicView) = publicOutcome (takeEvent e s) := by
  cases e with
  | wr a w v =>
    rw [takeEvent, takeEvent, hostWr, hostWr, show s.publicView.cfg = s.cfg from rfl]
    cases accessedReg s.cfg a w with
    | none => rfl
    | some r => exact (congrArg publicOutcome (writeReg_publicView r v s)).trans (publicOutcome_publicOutcome _)
  | rd a w =>
    rw [takeEvent, takeEvent, hostRd, hostRd, show s.publicView.cfg = s.cfg from rfl]
    cases accessedReg s.cfg a w with
    | none => rfl
    | some r =>
      exact congrArg Host.Outcome.next (publicView_hostData_congr s (by rw [readReg_publicView]))
  | mw a bs =>
    have written := publicView_hostWriteBytes_congr (publicView_publicView s) a bs
    rw [takeEvent, takeEvent, hostMw, hostMw, show s.publicView.cfg = s.cfg from rfl]
    split_ifs
    · rfl
    · rfl
    · exact congrArg Host.Outcome.next written
  | mr a n =>
    rw [takeEvent, takeEvent, hostMr, hostMr, show s.publicView.cfg = s.cfg from rfl]
    split_ifs
    · rfl
    · rfl
    · exact congrArg Host.Outcome.next (publicView_hostData_congr s (by simp [HostData.hideBytes, Function.comp_def]))
  | engine => exact publicOutcome_engineStep s
  | wait =>
    simp only [takeEvent, hostWait, readReg_publicView]
    split
    · exact congrArg (fun u : State => Host.Outcome.next
        { u with hostData := .reg (readReg s .status), script := .engine :: .wait :: s.script }) (publicView_publicView s)
    · exact congrArg Host.Outcome.next (publicView_hostData_congr s rfl)
  | reset =>
    exact congrArg (fun d => Host.Outcome.next
      { State.resetOf s.cfg [] s.script with hostData := d, freeCount := s.freeCount }) (HostData.hideBytes_hideBytes _)

/-- Settles O32: a step shows what a step from the public view shows, and that is the same for both. -/
theorem stepsRevealNoKeyAndNoData : Obligations.StepsRevealNoKeyAndNoData := by
  have publicStep (s : State) : publicOutcome (step s.publicView) = publicOutcome (step s) := by
    cases hs : s.script with
    | nil =>
      rw [step_nil hs, step_nil (s := s.publicView) hs, ← publicView_advance]
      exact publicOutcome_engineStep _
    | cons e rest =>
      rw [step_cons hs, step_cons (s := s.publicView) hs, ← publicView_advance]
      exact publicOutcome_takeEvent e _
  intro s t h
  rw [← publicStep s, h, publicStep t]

end Sys2Proof.Machine
end

section
/-! The lane operations (R131, R132), the permutation families (R117), SMEAR (R163) and the round-constant carrier (R175). -/

namespace Sys2Proof.Machine

/-- For an index in 0..15 a lookup has bit 7 clear, so it is the lane that the index names. -/
theorem lookupLane_of_lt (t : Vec) {x : Byte} (h : x.toNat < 16) : lookupLane t x = lane t (laneIndex x.toNat) := by
  have clear : x.getLsbD 7 = false := by
    rw [BitVec.getLsbD, Nat.testBit_lt_two_pow]
    omega
  rw [lookupLane, clear, if_neg Bool.false_ne_true]

/-- Settles O42: a lookup and a permutation are defined lane by lane. -/
theorem lookupAndPermuteLaneByLane : Obligations.LookupAndPermuteLaneByLane := by
  refine ⟨fun t x j => lane_lookup16 t x j, fun v p j k hk => ?_, fun v p small => vec_ext fun j => ?_⟩
  · rw [lane_permute, hk, laneIndex_val]
  · rw [lane_lookup16, lane_permute, lookupLane_of_lt v (small j)]

/-- Settles O44: the two compositions hold lane by lane, and the three constants by evaluation. -/
theorem basisChangesInvertAndCarry : Obligations.BasisChangesInvertAndCarry :=
  ⟨affine_out_ipt, affine_deskew_ipt, ipt_bcast_63, by decide, dipt_bcast_63⟩

/-- One more row shift of the family is one more ShiftRows. -/
theorem permute_sr_eq_iterate (v : Vec) {k : Nat} (hk : k < 4) : permute v (Rom.SR k) = Fips.shiftRows^[k] v := by
  induction k with
  | zero => exact permute_sr_zero v
  | succ k ih =>
    rw [Function.iterate_succ_apply', ← ih (by omega), ← permute_sr_one, permute_sr_sr v (by omega) (by decide),
      Nat.mod_eq_of_lt hk]

/-- Settles O47: the tables of the ROM are compared with their closed forms, and the row-shift family composes. -/
theorem permutationFamiliesHaveTheirClosedForms : Obligations.PermutationFamiliesHaveTheirClosedForms := by
  refine ⟨?_, fun k v => permute_sr_eq_iterate v k.isLt⟩
  decide +kernel

theorem wordSums_shlLanes (v : Vec) (k : Nat) : wordSums (shlLanes v k) = shlLanes (wordSums v) k := by
  simp only [wordSums, shlLanes_xor, shlLanes_shlLanes, Nat.add_comm k, Nat.add_right_comm]

/-- Each word of the sums is that of the vector added to the sum before it (R163). -/
theorem wordSums_eq_xor_shlLanes (v : Vec) : wordSums v = v ^^^ shlLanes (wordSums v) 4 := by
  have differences := wordSums_xor_shlLanes v
  rw [wordSums_xor, wordSums_shlLanes] at differences
  nth_rw 2 [← differences]
  rw [xor_cancel_right]

theorem lane_s63 (j : Fin 16) : lane Rom.S63 j = 0x5B := by
  rw [show Rom.S63 = bcast 0x5B by decide, lane_bcast]

/-- Byte `i` of word `w` of SMEAR. -/
theorem lane_smear (v : Vec) {w i : Nat} (hw : w < 4) (hi : i < 4) : lane (smear v) (laneIndex (4 * w + i)) =
    ((List.range (w + 1)).map fun k => lane v (laneIndex (4 * k + i))).foldl (· ^^^ ·) 0x5B := by
  rw [smear_eq_wordSums_xor, lane_xor, lane_s63]
  induction w with
  | zero =>
    rw [wordSums_eq_xor_shlLanes, lane_xor, lane_shlLanes, val_laneIndex_of_lt (by omega), if_neg (by omega)]
    simp [BitVec.xor_comm]
  | succ w ih =>
    have before : 4 * (w + 1) + i - 4 = 4 * w + i := by omega
    rw [List.range_succ, List.map_append, List.foldl_append, ← ih (by omega), wordSums_eq_xor_shlLanes, lane_xor, lane_shlLanes,
      val_laneIndex_of_lt (by omega), if_pos (by omega), before, ← wordSums_eq_xor_shlLanes]
    simp only [List.map_cons, List.map_nil, List.foldl_cons, List.foldl_nil]
    ac_rfl

/-- Settles O48: word by word, each adding itself to the sum of the words before it. -/
theorem smearIsTheRunningXorOfWords : Obligations.SmearIsTheRunningXorOfWords :=
  fun v w i => lane_smear v w.isLt i.isLt

/-- Settles O52: the table's values are those of IPT on the round constants, ten times by evaluation. -/
theorem carrierDeliversTheRoundConstants : Obligations.CarrierDeliversTheRoundConstants := by
  have table : ∀ n : Fin 10, lane (carrier n.val) 15 =
      [0x70, 0x2A, 0x98, 0x08, 0x4D, 0x7C, 0x7D, 0x81, 0x1F, 0x83].getD n.val 0 := by decide +kernel
  refine fun n => ⟨?_, table n⟩
  rw [lane_ipt, lane_bcast]
  exact lane_carrier n

/-- Settles O59: the inverse cipher undoes the cipher round by round, whatever the key is. -/
theorem inverseCipherInvertsCipher : Obligations.InverseCipherInvertsCipher :=
  fun key p => Fips.invCipher_cipher p key

/-! ### The loaded engine -/

/-- ENC_BLOCK reads no slot above Nr (R201). -/
theorem encBlock_congr {k k' : RoundKeys} {nr : Nat} (h : ∀ j ≤ nr, slot k j = slot k' j) (b : Vec) :
    encBlock b k nr = encBlock b k' nr := by
  have round : ∀ c, ∀ r ∈ List.range' 1 (nr - 1), encRound k c r = encRound k' c r := by
    intro c r hr
    rw [List.mem_range'_1] at hr
    rw [encRound, encRound, h r (by omega)]
  rw [encBlock, encBlock, encMiddle, encMiddle, encStart, encStart, h 0 (Nat.zero_le _), h nr le_rfl,
    List.foldl_ext _ _ _ round]

/-- DEC_BLOCK reads no slot above Nr (R205). -/
theorem decBlock_congr {k k' : RoundKeys} {nr : Nat} (h : ∀ j ≤ nr, slot k j = slot k' j) (b : Vec) :
    decBlock b k nr = decBlock b k' nr := by
  have round : ∀ c, ∀ r ∈ List.range' 1 (nr - 1), decRound k c r = decRound k' c r := by
    intro c r hr
    rw [List.mem_range'_1] at hr
    rw [decRound, decRound, h r (by omega)]
  rw [decBlock, decBlock, decMiddle, decMiddle, decStart, decStart, h 0 (Nat.zero_le _), h nr le_rfl,
    List.foldl_ext _ _ _ round]

/-- Settles O60: the loaded files agree with the schedule of one key up to Nr, and the block transforms read no further. -/
theorem loadedEngineIsAes : Obligations.LoadedEngineIsAes := by
  intro s h valid
  obtain ⟨key, aes, holds⟩ := h.key valid
  have live (k : RoundKeys) : ∀ j ≤ (keySched key).nr, slot (liveSlots (keySched key).nr k) j = slot k j := fun j hj => by
    rw [slot_liveSlots, if_pos hj]
  have nr := toNat_nr_of_holdsKey aes holds
  refine ⟨key, aes, holds, fun b => ?_⟩
  obtain ⟨encrypts, decrypts⟩ := blockTransformsAreFips197 key b aes
  obtain ⟨-, ek, dk⟩ := holds
  rw [ek, dk, nr, encBlock_congr (live _), decBlock_congr (live _)]
  exact ⟨encrypts, decrypts⟩

end Sys2Proof.Machine
end
